-- ==== Sys2Proof/Word.lean ====
section
/-! DEFINITION. The plain units of the FW-4120 (spec 00_scope, "Units and conventions"): characters on a line,
angles in milliarcseconds, site times and durations in milliseconds, and the few angle constants of the manual. -/

namespace Sys2Proof

/-- A character on a line: 8 data bits (R180). -/
abbrev Octet := BitVec 8

/-- An angle or an axis position, in milliarcseconds (mas); signed, exact, never wrapped by the type. -/
abbrev Mas := Int

/-- A site time, in milliseconds (a 48-bit count on the part, R2); `Int` because windows and rates subtract. -/
abbrev SiteTime := Int

/-- A time-base reading or a duration, in milliseconds (R1). -/
abbrev Ms := Nat

/-- One full turn T in mas (00_scope, Units). -/
def turn : Int := 1296000000

/-- Half a turn in mas. -/
def halfTurn : Int := 648000000

/-- 90 degrees in mas: the largest altitude or declination. -/
def quarterTurn : Int := 324000000

/-- The largest 48-bit count, the top of the site clock's range (R2). -/
def topTime : Int := 281474976710655

/-- 89 degrees in mas, the cap of the offsets and model stages (R17, R19). -/
def cap89 : Int := 320400000

end Sys2Proof
end

