-- ==== Sys2Proof/Config.lean ====
section
/-! DEFINITION. What the manual leaves without a value, as a free constant. -/

namespace Sys2Proof

/-- The site time the engine would evaluate a target at while the clock is unset. R2: "While the clock is unset, it
has no reading", and R31 keeps the case from arising at a slew start, so no run from power-on reads it. It has no
body: nothing can be proved of its value. DESIGN CHOICE (log 2), safe. -/
opaque Config.readingWhileUnset : SiteTime

end Sys2Proof
end

