-- ==== Sys2Proof/Syntax.lean ====
section
/-! DEFINITION. The commands of the part: one constructor of `Instr` per row of spec/opcode_table.json. A row that is a
message carries how it arrived and its comma-separated fields as the line delivered them (R181: a field is a number,
a word, or neither), so that every MALFORMED and RANGE form of the manual can be written. A row that is an event
carries what the outside world supplies with it. -/

namespace Sys2Proof

/-- The two shared serial lines (R180). -/
inductive Line where
  | a
  | b
  deriving DecidableEq, Repr

/-- The line other than the given one (R188). -/
def Line.other : Line → Line
  | .a => .b
  | .b => .a

/-- How a taken message was sent (R182). -/
inductive Cast where
  | addressed
  | broadcast
  deriving DecidableEq, Repr

/-- The line a frame completed on and whether it carried the part's own address or address 31. -/
structure Arrival where
  line : Line
  cast : Cast
  deriving DecidableEq, Repr

/-- A field as its owner reads it (R181): a number, a word, or neither of them (an empty field included). -/
inductive Field where
  | num (n : Int)
  | word (w : String)
  | bad
  deriving DecidableEq, Repr

/-- The two axes of the mount. -/
inductive Axis where
  | az
  | el
  deriving DecidableEq, Repr

/-- A level on a wire, and an input's polarity (the level that is active). -/
inductive Level where
  | low
  | high
  deriving DecidableEq, Repr

/-- The twelve filtered inputs, in the order of the table of inputs (09, The inputs). -/
inductive InputName where
  | azPrePos
  | azPreNeg
  | azFinPos
  | azFinNeg
  | elPreLow
  | elPreHigh
  | elFinLow
  | elFinHigh
  | estop
  | wrapSide
  | wind
  | dome
  deriving DecidableEq, Repr

/-- The message names, in the order of the message index (12, Message index). -/
inductive MsgName where
  | time | trim | clkq | site | mtrm | mact | mqry | goto | stop | offs | axcf | posq | mask | zone | limq
  | qadd | qdel | qsub | qlst | trap | qrun | qhld | qres | qskp | plan | guid | gcfg | incf | inpq | back
  | stow | wcfg | frec | fack | alrt | acka | rlog | park | unpk | dorm | wake | refr | rset | stor | stat
  | last | mute | unmt | lock | lrst
  deriving DecidableEq, Repr

/-- The name of a complete frame: one of the index, or four other letters (R183 step 1). -/
inductive Name where
  | known (m : MsgName)
  | unknown (letters : String)
  deriving DecidableEq, Repr

/-- The commands: one constructor per row of spec/opcode_table.json, in the table's order. -/
inductive Instr where
  /-- Power is applied; the five address straps read `straps` (R169, R180). -/
  | powerOn (straps : BitVec 5)
  | powerLoss
  | storeLoadEnd
  | encoderWaitExpiry
  | storeWriteEnd
  | trimFold
  /-- A demand interval at which the two encoder channels count `rawAz` and `rawEl` (R29). -/
  | demandInterval (rawAz rawEl : Int)
  | settleTimeout
  | followingTrip
  | unparkWaitExpiry
  /-- The index mark of an axis's encoder passes at channel count `raw` (R145). -/
  | indexMark (axis : Axis) (raw : Int)
  /-- One filter sample of an input whose wire is at `level` (R136). -/
  | inputRecognition (input : InputName) (level : Level)
  | windHoldEnd
  | domeTimeout
  | dwellComplete
  | giveUp
  | startInstant
  | planEntryDone
  | restartReinit
  | replyComplete (line : Line)
  | frameGapTimeout (line : Line)
  | frameRejected (line : Line)
  /-- A complete frame with address `address` (R182). -/
  | frameOtherAddress (line : Line) (address : BitVec 5)
  | messageUnknown (arr : Arrival) (letters : String) (fs : List Field)
  | time (arr : Arrival) (fs : List Field)
  | trim (arr : Arrival) (fs : List Field)
  | clkq (arr : Arrival) (fs : List Field)
  | site (arr : Arrival) (fs : List Field)
  | mtrm (arr : Arrival) (fs : List Field)
  | mact (arr : Arrival) (fs : List Field)
  | mqry (arr : Arrival) (fs : List Field)
  | goto (arr : Arrival) (fs : List Field)
  | stop (arr : Arrival) (fs : List Field)
  | offs (arr : Arrival) (fs : List Field)
  | axcf (arr : Arrival) (fs : List Field)
  | posq (arr : Arrival) (fs : List Field)
  | maskRead (arr : Arrival) (fs : List Field)
  | maskWrite (arr : Arrival) (fs : List Field)
  | maskAll (arr : Arrival) (fs : List Field)
  | zoneRead (arr : Arrival) (fs : List Field)
  | zoneEnable (arr : Arrival) (fs : List Field)
  | zoneBounds (arr : Arrival) (fs : List Field)
  | limq (arr : Arrival) (fs : List Field)
  | qadd (arr : Arrival) (fs : List Field)
  | qdelEntry (arr : Arrival) (fs : List Field)
  | qdelGroup (arr : Arrival) (fs : List Field)
  | qdelAll (arr : Arrival) (fs : List Field)
  | qsub (arr : Arrival) (fs : List Field)
  | qlst (arr : Arrival) (fs : List Field)
  | trapRead (arr : Arrival) (fs : List Field)
  | trapSet (arr : Arrival) (fs : List Field)
  | trapOn (arr : Arrival) (fs : List Field)
  | trapOff (arr : Arrival) (fs : List Field)
  | trapClear (arr : Arrival) (fs : List Field)
  | qrun (arr : Arrival) (fs : List Field)
  | qhld (arr : Arrival) (fs : List Field)
  | qres (arr : Arrival) (fs : List Field)
  | qskp (arr : Arrival) (fs : List Field)
  | plan (arr : Arrival) (fs : List Field)
  | guidRead (arr : Arrival) (fs : List Field)
  | guidCorrection (arr : Arrival) (fs : List Field)
  | gcfg (arr : Arrival) (fs : List Field)
  | incf (arr : Arrival) (fs : List Field)
  | inpq (arr : Arrival) (fs : List Field)
  | back (arr : Arrival) (fs : List Field)
  | stow (arr : Arrival) (fs : List Field)
  | wcfg (arr : Arrival) (fs : List Field)
  | frec (arr : Arrival) (fs : List Field)
  | fack (arr : Arrival) (fs : List Field)
  | alrtRead (arr : Arrival) (fs : List Field)
  | alrtMask (arr : Arrival) (fs : List Field)
  | alrtUnmask (arr : Arrival) (fs : List Field)
  | acka (arr : Arrival) (fs : List Field)
  | rlog (arr : Arrival) (fs : List Field)
  | park (arr : Arrival) (fs : List Field)
  | unpk (arr : Arrival) (fs : List Field)
  | dorm (arr : Arrival) (fs : List Field)
  | wake (arr : Arrival) (fs : List Field)
  | refr (arr : Arrival) (fs : List Field)
  | rset (arr : Arrival) (fs : List Field)
  | stor (arr : Arrival) (fs : List Field)
  | storWait (arr : Arrival) (fs : List Field)
  | storRead (arr : Arrival) (fs : List Field)
  | stat (arr : Arrival) (fs : List Field)
  | last (arr : Arrival) (fs : List Field)
  | mute (arr : Arrival) (fs : List Field)
  | unmt (arr : Arrival) (fs : List Field)
  | lockRead (arr : Arrival) (fs : List Field)
  | lockWrite (arr : Arrival) (fs : List Field)
  | lrst (arr : Arrival) (fs : List Field)
  /-- One character arrives on a line (R181). -/
  | characterReceived (line : Line) (ch : Octet)
  deriving DecidableEq, Repr

end Sys2Proof
end

