-- ==== Sys2Proof/Decode.lean ====
section
/-! DEFINITION. The command a word of the table's bits spells. No row of spec/opcode_table.json gives bits: the part has no
register window, its messages are text frames (00_scope, R181), and its events have no encoding. -/

namespace Sys2Proof

/-- The command spelt by a word of `nbits` bits: none, since no row gives bits. -/
def decodeTableWord (_nbits _w : Nat) : Option Instr := none

end Sys2Proof
end

