-- ==== Sys2Proof/Machine/Arith.lean ====
section
/-! DEFINITION. Exact integer arithmetic of the manual: the rounding rule of 00_scope ("nearest, halves away from zero"),
rounding up, turns, clamping, square roots, and the trigonometric stages in fixed point. -/

namespace Sys2Proof.Machine

/-- The exact value `n / d` (for `0 < d`) rounded to the nearest integer, halves away from zero (00_scope, Rounding). -/
def roundDiv (n d : Int) : Int :=
  if 0 ≤ n then (2 * n + d) / (2 * d) else -((-2 * n + d) / (2 * d))

/-- `n / d` (for `0 < d`) rounded up (00_scope: estimates round up). -/
def ceilDiv (n d : Int) : Int := -(-n / d)

/-- `x` brought into `[lo, hi]`. -/
def clampTo (lo hi x : Int) : Int := if x < lo then lo else if hi < x then hi else x

/-- `x` brought into `[0, T)` by whole turns (00_scope). -/
def normTurn (x : Mas) : Mas := x % turn

/-- `x` brought into `(−T/2, T/2]` by whole turns. -/
def signedTurn (x : Mas) : Mas :=
  let m := x % turn
  if halfTurn < m then m - turn else m

/-- The value `r + n·T` whose difference from `prev` lies in `(−T/2, T/2]` (R56). -/
def nearTurn (prev r : Mas) : Mas := prev + signedTurn (r - prev)

/-- Whether `|x|` is within `tol` (R33: less than or equal). -/
def within (tol x : Int) : Bool := decide (-tol ≤ x ∧ x ≤ tol)

/-- Whether `x` lies in `[lo, hi]`, both ends included. -/
def between (lo hi x : Int) : Bool := decide (lo ≤ x ∧ x ≤ hi)

/-- The integer square root, rounded down, of a number below `4^k`. -/
def sqrtFuel : Nat → Nat → Nat
  | 0, _ => 0
  | k + 1, n =>
    let r := 2 * sqrtFuel k (n / 4)
    if (r + 1) * (r + 1) ≤ n then r + 1 else r

/-- The square root of `n`, rounded down. -/
def floorSqrt (n : Nat) : Nat := sqrtFuel (n.log2 / 2 + 1) n

/-- The square root of `n`, rounded up. -/
def ceilSqrt (n : Nat) : Nat :=
  let r := floorSqrt n
  if r * r < n then r + 1 else r

/-! ### Trigonometry in fixed point

Values are integers in units of 2^-160. The sums below are accurate to better than 2^-120, and `roundFix` treats a value
within 2^-96 of a half as that half, so that exact halves (cos 60° and the like) go away from zero (log 6). -/

/-- 1 in fixed point. -/
def fixOne : Int := 1461501637330902918203684832716283019655932542976

/-- π in fixed point, rounded down. -/
def fixPi : Int := 4591442807048218921384805199743311128454155024418

/-- A fixed-point value rounded to the nearest integer, halves away from zero. -/
def roundFix (x : Int) : Int :=
  let guard : Int := 730750818665451459101842416358141509827966271488 + 18446744073709551616
  if 0 ≤ x then (x + guard) / fixOne else -((-x + guard) / fixOne)

/-- Horner's scheme `1 − x²/(k(k+1))·(1 − x²/((k+2)(k+3))·(…))` with `n` terms; `x2` is x². -/
def hornerFix (x2 : Int) : Nat → Int → Int
  | 0, _ => fixOne
  | n + 1, k => fixOne - x2 * hornerFix x2 n (k + 2) / fixOne / (k * (k + 1))

/-- sin of an angle of `r` mas, `0 ≤ r ≤ T/8`. -/
def sinSmall (r : Mas) : Int :=
  let x := r * fixPi / 648000000
  x * hornerFix (x * x / fixOne) 20 2 / fixOne

/-- cos of an angle of `r` mas, `0 ≤ r ≤ T/8`. -/
def cosSmall (r : Mas) : Int :=
  let x := r * fixPi / 648000000
  hornerFix (x * x / fixOne) 20 1

/-- sin of an angle of `r` mas, `0 ≤ r ≤ T/4`. -/
def sinQuarter (r : Mas) : Int := if r ≤ 162000000 then sinSmall r else cosSmall (quarterTurn - r)

/-- cos of an angle of `r` mas, `0 ≤ r ≤ T/4`. -/
def cosQuarter (r : Mas) : Int := if r ≤ 162000000 then cosSmall r else sinSmall (quarterTurn - r)

/-- sin of any angle in mas. -/
def sinMas (x : Mas) : Int :=
  let m := normTurn x
  let r := m % quarterTurn
  match (m / quarterTurn).toNat with
  | 0 => sinQuarter r
  | 1 => cosQuarter r
  | 2 => -sinQuarter r
  | _ => -cosQuarter r

/-- cos of any angle in mas. -/
def cosMas (x : Mas) : Int := sinMas (x + quarterTurn)

/-- The square root of a non-negative fixed-point value. -/
def sqrtFix (x : Int) : Int := (floorSqrt (x * fixOne).toNat : Nat)

/-- One halving of the angle: tan(θ/2) from tan θ. -/
def halveTan (q : Int) : Int := q * fixOne / (fixOne + sqrtFix (fixOne + q * q / fixOne))

/-- Series of arctan: `1/k − q²·(1/(k+2) − q²·(…))`, `n` terms. -/
def atanSeries (q2 : Int) : Nat → Int → Int
  | 0, k => fixOne / k
  | n + 1, k => fixOne / k - q2 * atanSeries q2 n (k + 2) / fixOne

/-- arctan of `q` in `[0, 1]`, in radians: three halvings, then the series. -/
def atanFix (q : Int) : Int :=
  let h := halveTan (halveTan (halveTan q))
  8 * (h * atanSeries (h * h / fixOne) 26 1 / fixOne)

/-- A fixed-point angle in radians as a fixed-point angle in mas. -/
def radToMas (a : Int) : Int := a * 648000000 * fixOne / fixPi

/-- atan2 of two non-negative values, not both zero, as fixed-point mas in `[0, T/4]`. -/
def atanFirst (y x : Int) : Int :=
  if y ≤ x then radToMas (atanFix (y * fixOne / x))
  else quarterTurn * fixOne - radToMas (atanFix (x * fixOne / y))

/-- atan2 as fixed-point mas in `(−T/2, T/2]`; 0 when both arguments are 0 (no caller asks it then). -/
def atan2Fix (y x : Int) : Int :=
  if y = 0 ∧ x = 0 then 0
  else if 0 ≤ y then
    if 0 ≤ x then atanFirst y x else halfTurn * fixOne - atanFirst y (-x)
  else
    if 0 ≤ x then -atanFirst (-y) x else atanFirst (-y) (-x) - halfTurn * fixOne

end Sys2Proof.Machine
end

