-- ==== Sys2Proof/Machine/State.lean ====
section
/-! DEFINITION. The state of the FW-4120 as plain data: one structure per block of the manual (00_scope, "Blocks and
how they fit together"), the whole part, the queue of waiting commands, and the state right after power-on. -/

namespace Sys2Proof.Machine

/-- Why a step can stop with a fault. There is no constructor: R181 to R185 discard what the line cannot take, every
other row has an effect in every state, and a message that is refused is answered, so no command stops the part. -/
inductive Fault where
  deriving DecidableEq, Repr

/-- Why a command has no meaning. -/
inductive Refusal where
  /-- Raised only by `exec` for a row that has no meaning yet (none has: every arm of `exec` calls a meaning). Safe. -/
  | notModelled (mnemonic : String)
  deriving DecidableEq, Repr

/-! ### Site Clock (R1, R2) and Site Parameters (R9) -/

/-- The trim record of R2: the time base at its start and the offset to blend in. -/
structure Trim where
  start : Ms
  delta : Int
  deriving DecidableEq, Repr

/-- Site Clock (R1, R2). `timeBase` is the free-running count; the rest is the settable site clock. -/
structure Clock where
  timeBase : Ms
  isSet : Bool
  anchorSite : SiteTime
  anchorBase : Ms
  refTime : SiteTime
  refAngle : Mas
  trim : Option Trim
  deriving DecidableEq, Repr

/-- Site Parameters (R9): latitude and refraction constant. -/
structure Site where
  latitude : Mas
  refraction : Mas
  deriving DecidableEq, Repr

/-! ### Pointing Model (R21) -/

/-- The seven model terms (02, The seven terms). -/
structure Terms where
  ia : Mas
  ie : Mas
  ca : Mas
  np : Mas
  an : Mas
  ae : Mas
  tf : Mas
  deriving DecidableEq, Repr

/-- Pointing Model (R21). -/
structure Model where
  staged : Terms
  active : Terms
  generation : Nat
  pending : Bool
  deriving DecidableEq, Repr

/-! ### Motion Engine (R27) -/

/-- The motion states (R28). -/
inductive Motion where
  | unreferenced | waking | referencing | dormant | parked | unparking | ready | slewing | settling
  | tracking | keyhole | stopping | parking | stowing | stowed | tripped | backout
  deriving DecidableEq, Repr

/-- A side of zero, a wrap side, or a direction of travel. -/
inductive Side where
  | pos
  | neg
  deriving DecidableEq, Repr

/-- A wrap preference (R59). -/
inductive Pref where
  | near
  | pos
  | neg
  deriving DecidableEq, Repr

/-- The optional rates and epoch of a SKY target (R12). -/
structure Rates where
  ra : Mas
  dec : Mas
  epoch : SiteTime
  deriving DecidableEq, Repr

/-- A target's kind and coordinates (R27, R41, R79). -/
inductive Coords where
  | sky (ra dec : Mas) (rates : Option Rates)
  | altaz (az alt : Mas)
  | axis (az el : Mas)
  deriving DecidableEq, Repr

/-- Who asked for a target (R27). -/
inductive Origin where
  | list (id : Nat)
  | goto
  deriving DecidableEq, Repr

/-- A target as it is handed to the engine (R43, R109). `minAlt` is the min altitude of a list entry that carries one
(R70); a coasted target keeps it after its entry has left the list. DEDUCED (log 12). -/
structure Assignment where
  origin : Origin
  coords : Coords
  pref : Pref
  guide : Bool
  dwell : Option Ms
  estimate : Option Ms
  minAlt : Option Mas
  record : Option Nat
  deriving DecidableEq, Repr

/-- The current target record (R27). A target whose `given.record` is absent is being coasted. `noRun` says that the engine's
own wrap choice found every run 0, so that its slew ends LIMIT at its first demand interval (R60). -/
structure Target where
  given : Assignment
  destAz : Mas
  destEl : Mas
  side : Side
  arrived : Bool
  reached : Bool
  noRun : Bool
  deriving DecidableEq, Repr

/-- The reference search of one axis (R144, R145). -/
structure Search where
  dir : Side
  reversed : Bool
  found : Bool
  deriving DecidableEq, Repr

/-- What the engine holds for one axis (R27). `velocity` and `profile` are in units of 1/`fx` mas/s and 1/`fx` mas
(log 7); `encoder` is the channel's latest count and `zero` turns it into a position (log 8). -/
structure AxisState where
  referenced : Bool
  demand : Mas
  velocity : Int
  profile : Option Int
  captured : Bool
  actual : Option Mas
  error : Option Mas
  overSince : Option Ms
  encoder : Int
  zero : Int
  search : Option Search
  deriving DecidableEq, Repr

/-- The nineteen settings of the axis configuration (R50). -/
structure AxisCfg where
  azLo : Mas
  azHi : Mas
  elLo : Mas
  elHi : Mas
  azVmax : Int
  elVmax : Int
  accel : Int
  creep : Int
  settle : Int
  arrTol : Mas
  trkTol : Mas
  tripTrk : Mas
  tripSlw : Mas
  parkAz : Mas
  parkEl : Mas
  stowEl : Mas
  keyAlt : Mas
  azIndex : Mas
  elIndex : Mas
  deriving DecidableEq, Repr

/-- The passage record of R63: entry on the time base, exit as a site time, exit axis position. -/
structure Passage where
  entered : Ms
  exitAt : SiteTime
  exitAz : Mas
  deriving DecidableEq, Repr

/-- A limit backout in progress (R147): the named axis, its direction of travel and the demand it started from. -/
structure Backout where
  axis : Axis
  dir : Side
  start : Mas
  deriving DecidableEq, Repr

/-- Motion Engine (R27, R143). `request` is a list target waiting for the READY that ends an unpark (R109); `halting`
says that a reference run, a backout or a stow is being brought to rest (R36, R54, R140, R147); `seen` is the latest
interval's apparent altitude and sky azimuth (R77); `demandAt` is the latest interval's instant. -/
structure Engine where
  motion : Motion
  az : AxisState
  el : AxisState
  offArc : Mas
  offEl : Mas
  cfg : AxisCfg
  target : Option Target
  request : Option Assignment
  passage : Option Passage
  arrivedAt : Option Ms
  unparkAt : Option Ms
  mismatch : Bool
  encodersOn : Bool
  backout : Option Backout
  halting : Bool
  disturbed : Bool
  seen : Option (Mas × Mas)
  demandAt : Option Ms
  deriving DecidableEq, Repr

/-! ### Limit Checker (R68) -/

/-- One keep-out zone (R68). -/
structure Zone where
  azMin : Mas
  azMax : Mas
  elMin : Mas
  elMax : Mas
  on : Bool
  deriving DecidableEq, Repr

/-- Limit Checker (R68): 36 mask points and 8 zones. -/
structure Limits where
  mask : List Mas
  zones : List Zone
  deriving DecidableEq, Repr

/-! ### Night List (R78, R79, R91, R93) -/

/-- A predicted outcome (R93). -/
inductive Predicted where
  | run | miss | low | setsEarly | zone | wrap
  deriving DecidableEq, Repr

/-- A plan record (R93). -/
structure PlanRec where
  current : Bool
  start : Option SiteTime
  finish : Option SiteTime
  outcome : Option Predicted
  side : Option Side
  keyhole : Bool
  altitude : Option Mas
  deriving DecidableEq, Repr

/-- An entry's kind with the numbers that belong to it (R79, R80). -/
inductive Body where
  | sky (ra dec : Mas) (dwell : Ms)
  | altaz (az alt : Mas) (dwell : Ms)
  | axis (az el : Mas) (dwell : Ms)
  | mark
  | park
  deriving DecidableEq, Repr

/-- The optional fields of an entry (R79); a missing wrap preference reads as NEAR. -/
structure Opts where
  rates : Option Rates
  notBefore : Option SiteTime
  notAfter : Option SiteTime
  giveUp : Option SiteTime
  minAlt : Option Mas
  group : Option Nat
  wrap : Option Pref
  guide : Bool
  hold : Bool
  deriving DecidableEq, Repr

/-- An entry of the night list with its plan record (R78, R79). -/
structure Entry where
  id : Nat
  body : Body
  opts : Opts
  plan : PlanRec
  deriving DecidableEq, Repr

/-- The verb of a draft (R83). -/
inductive Verb where
  | add
  | sub
  deriving DecidableEq, Repr

/-- The draft (R83). -/
structure Draft where
  id : Nat
  verb : Verb
  body : Body
  opts : Opts
  next : Bool
  deriving DecidableEq, Repr

/-- An intercept slot (R91). -/
structure Slot where
  id : Option Nat
  on : Bool
  deriving DecidableEq, Repr

/-- Night List (R78): entries head first, the current marker, four slots, the draft. -/
structure NightList where
  entries : List Entry
  current : Option Nat
  slots : List Slot
  draft : Option Draft
  deriving DecidableEq, Repr

/-! ### List Runner (R96) and Planner (R120, R121) -/

/-- The held reasons (R96). -/
inductive HeldReason where
  | host | goto | trip | wind | mark | stop | park
  deriving DecidableEq, Repr

/-- The runner's states (R97); the held reason is present only in HELD. -/
inductive RunState where
  | idle | empty | intercept | waiting | acquiring | observing
  | held (reason : HeldReason)
  deriving DecidableEq, Repr

/-- The run context (R96). `observed` is the model's field: the engine's next TRACKING on the entry's target enters OBSERVING
with no dome check, since the entry has been in OBSERVING (R111) or an absence of DOME ended after the first TRACKING, while
the engine was not there (R110, log 13). `goingOn` is the model's too: an entry has just closed and the next head is yet to
be taken up (R95, R112 step 4, log 55). -/
structure RunCtx where
  id : Option Nat
  fired : Bool
  startAt : Option SiteTime
  estimate : Option Ms
  record : Option Nat
  accum : Ms
  countFrom : Option Ms
  domeFrom : Option Ms
  observed : Bool
  goingOn : Bool
  deriving DecidableEq, Repr

/-- List Runner (R96). -/
structure Runner where
  state : RunState
  holdAfter : Bool
  windResume : Bool
  domeWait : Ms
  ctx : RunCtx
  deriving DecidableEq, Repr

/-- A pass of the Planner (R120, R121): the cursor, when planning that entry began, the origin carried from entry to
entry, and whether a PARK has been planned. -/
structure Pass where
  cursor : Nat
  began : Ms
  origin : SiteTime
  az : Mas
  el : Mas
  behindPark : Bool
  deriving DecidableEq, Repr

/-- Planner (R120); RUNNING when a pass is present. -/
structure Planner where
  pass : Option Pass
  deriving DecidableEq, Repr

/-! ### Guide Unit (R124) -/

/-- Guide Unit (R124). `told` is the Motion Engine's last word, `allowed` combines it with the enable (R125). -/
structure Guide where
  enable : Bool
  rate : Int
  step : Mas
  remA : Mas
  remE : Mas
  accA : Mas
  accE : Mas
  told : Bool
  allowed : Bool
  counted : Option Nat
  applied : Nat
  superseded : Nat
  clipped : Nat
  saturated : Bool
  deriving DecidableEq, Repr

/-! ### Input Filters (R135) and Wind Logic (R149) -/

/-- The stored part of an input's configuration (R135, R176). -/
structure FilterCfg where
  polarity : Level
  code : Nat
  deriving DecidableEq, Repr

/-- One input filter (R135): `true` stands for ACTIVE. `wire` is the pin's level as last sampled and `sampledAt` the
instant of that sample (log 9). -/
structure Filter where
  cfg : FilterCfg
  enabled : Bool
  last : Option Bool
  recognised : Option Bool
  wire : Level
  sampledAt : Option Ms
  deriving DecidableEq, Repr

/-- Something held for each of the twelve inputs, in the order of the table of inputs. -/
structure PerInput (α : Type) where
  azPrePos : α
  azPreNeg : α
  azFinPos : α
  azFinNeg : α
  elPreLow : α
  elPreHigh : α
  elFinLow : α
  elFinHigh : α
  estop : α
  wrapSide : α
  wind : α
  dome : α
  deriving DecidableEq, Repr

/-- Wind Logic (R149); the timer holds the time base it runs from. -/
structure Wind where
  hold : Bool
  timer : Option Ms
  release : Ms
  autoResume : Bool
  deriving DecidableEq, Repr

/-! ### Fault Table (R154, R155), Alert Unit (R162), Run Log (R164, R165) -/

/-- A tagged time (R155, R165). -/
inductive Stamp where
  | site (t : SiteTime)
  | base (b : Ms)
  deriving DecidableEq, Repr

/-- The severities (R156). -/
inductive Severity where
  | trip | abandon | notice
  deriving DecidableEq, Repr

/-- The sources of a report (R155, R156). -/
inductive Source where
  | azAxis | elAxis | inputs | limits | list | guide | store
  deriving DecidableEq, Repr

/-- The reasons of R156. -/
inductive Reason where
  | following | finalLimit | estop | wrapMismatch | noIndex | backoutFailed
  | preLimit | softLimit | zone | domeTimeout | guideSaturated | storeInvalid | clockStep
  deriving DecidableEq, Repr

/-- A fault record (R155); the index is its place in the table. -/
structure FaultRec where
  severity : Severity
  source : Source
  reason : Reason
  first : Stamp
  last : Stamp
  count : Nat
  entry : Option Nat
  az : Option Mas
  el : Option Mas
  deriving DecidableEq, Repr

/-- Fault Table (R154): eight places, the creation order of the valid ones, the overflow flag. -/
structure FaultTable where
  recs : List (Option FaultRec)
  order : List Nat
  overflow : Bool
  deriving DecidableEq, Repr

/-- Alert Unit (R162); `masked` is the mask SET. -/
structure Alerts where
  masked : Bool
  mark : Bool
  intercept : Bool
  listEnd : Bool
  plan : Bool
  wind : Bool
  deriving DecidableEq, Repr

/-- The kinds of a run record (R165). -/
inductive Kind where
  | sky | altaz | axis | mark | park
  deriving DecidableEq, Repr

/-- The outcomes of R166. -/
inductive Ending where
  | complete | skippedMissed | skippedLow | skippedWrap | skippedZone | setsEarly | skippedHost
  | timedOut | set | limit | zone | preLimit | domeTimeout | stopped | interrupted | tripped
  | stowed | markReached | parked | ended | restarted
  deriving DecidableEq, Repr

/-- A run record (R165). -/
structure RunRec where
  seq : Nat
  origin : Origin
  kind : Kind
  started : Option Stamp
  arrived : Option Stamp
  ended : Option Stamp
  supersededBy : Option Nat
  outcome : Option Ending
  dwell : Ms
  keyholeMs : Ms
  disturbedMs : Ms
  applied : Nat
  superseded : Nat
  clipped : Nat
  saturated : Bool
  side : Option Side
  generation : Option Nat
  deriving DecidableEq, Repr

/-- Run Log (R164): records oldest first, and the next sequence number. -/
structure RunLog where
  records : List RunRec
  next : Nat
  deriving DecidableEq, Repr

/-! ### Power Control (R168) and the configuration store (R176) -/

/-- What the configuration store holds (R176). -/
structure StoreImage where
  site : Site
  cfg : AxisCfg
  limits : Limits
  inputs : PerInput FilterCfg
  windOn : Bool
  domeOn : Bool
  release : Ms
  autoResume : Bool
  domeWait : Ms
  guideEnable : Bool
  guideRate : Int
  guideStep : Mas
  terms : Terms
  waitCode : Nat
  deriving DecidableEq, Repr

/-- Power Control (R168) with the non-volatile store. `loaded` says that the store load has ended (R169), and
`restarting` that an RSET is between its taking and its step 6 (R175). -/
structure Power where
  powered : Bool
  loaded : Bool
  restarting : Bool
  mark : Bool
  loadResult : Bool
  writing : Option (Ms × StoreImage)
  waitCode : Nat
  wait : Option (Ms × Ms)
  store : StoreImage
  deriving DecidableEq, Repr

/-! ### Line Interface (R180) -/

/-- The outcome words (12, Outcome words). -/
inductive Result where
  | ok | pending | dropped | nothing | busy | state | range | malformed | unknown | locked | full
  | duplicate | notFound | inUse | noClock | unref | tripped | wind | low | zone | tooFar
  deriving DecidableEq, Repr

/-- A field of a reply: a number, a word, or an absent field (R184). -/
inductive RField where
  | num (n : Int)
  | text (s : String)
  | absent
  deriving DecidableEq, Repr

/-- A reply (R184): `Reply.octets` gives its characters. `since` is the time base at which it began. -/
structure Reply where
  address : BitVec 5
  name : Name
  result : Result
  summary : BitVec 16
  fields : List RField
  since : Ms
  deriving DecidableEq, Repr

/-- What the Line Interface holds for one line (R180): the receive frame buffer with the time base of its latest
character, the reply in progress, and the muted flag. -/
structure LineState where
  buffer : List Octet
  charAt : Ms
  reply : Option Reply
  muted : Bool
  deriving DecidableEq, Repr

/-- The last-message record (R180). -/
structure LastMsg where
  name : Name
  line : Line
  cast : Cast
  result : Result
  deriving DecidableEq, Repr

/-- Line Interface (R180). `locksA` holds the names locked on LINE A. -/
structure LineIf where
  a : LineState
  b : LineState
  locksA : List MsgName
  locksB : List MsgName
  last : Option LastMsg
  msgErr : Bool
  bcast : Bool
  address : BitVec 5
  deriving DecidableEq, Repr

/-! ### The part and the machine -/

/-- The whole part: its blocks. `lastAz` is the Sky Calculator's last demanded sky azimuth (R14). -/
structure Part where
  power : Power
  clock : Clock
  site : Site
  lastAz : Option Mas
  model : Model
  engine : Engine
  limits : Limits
  list : NightList
  runner : Runner
  planner : Planner
  guide : Guide
  inputs : PerInput Filter
  wind : Wind
  faults : FaultTable
  alerts : Alerts
  log : RunLog
  line : LineIf
  deriving DecidableEq, Repr

/-- The machine: the part, and the commands that are waiting, first in, first out. -/
structure State where
  part : Part
  pending : List Instr
  deriving DecidableEq, Repr

/-! ### Power-on values -/

/-- All seven terms zero (R21, store invalid). -/
def Terms.zero : Terms := { ia := 0, ie := 0, ca := 0, np := 0, an := 0, ae := 0, tf := 0 }

/-- The defaults of the axis configuration (R50). -/
def AxisCfg.default : AxisCfg :=
  { azLo := -972000000, azHi := 972000000, elLo := 18000000, elHi := 323640000,
    azVmax := 10800000, elVmax := 7200000, accel := 3600000, creep := 180000, settle := 3000,
    arrTol := 5000, trkTol := 2000, tripTrk := 360000, tripSlw := 3600000,
    parkAz := 0, parkEl := 324000000, stowEl := 320400000, keyAlt := 316800000,
    azIndex := 0, elIndex := 162000000 }

/-- A disabled zone with all four bounds 0 (R68). -/
def Zone.blank : Zone := { azMin := 0, azMax := 0, elMin := 0, elMax := 0, on := false }

/-- The tables when the store is invalid (R68). -/
def Limits.default : Limits :=
  { mask := List.replicate 36 36000000, zones := List.replicate 8 Zone.blank }

/-- The default polarity and filter code of each input (09, The inputs). -/
def PerInput.defaults : PerInput FilterCfg :=
  let limit : FilterCfg := { polarity := .low, code := 2 }
  { azPrePos := limit, azPreNeg := limit, azFinPos := limit, azFinNeg := limit,
    elPreLow := limit, elPreHigh := limit, elFinLow := limit, elFinHigh := limit,
    estop := { polarity := .low, code := 1 }, wrapSide := { polarity := .high, code := 3 },
    wind := { polarity := .high, code := 4 }, dome := { polarity := .high, code := 5 } }

/-- The defaults every owner takes when the store is invalid (R170). -/
def StoreImage.default : StoreImage :=
  { site := { latitude := 0, refraction := 35000 }, cfg := AxisCfg.default, limits := Limits.default,
    inputs := PerInput.defaults, windOn := false, domeOn := false, release := 1200000, autoResume := true,
    domeWait := 60000, guideEnable := true, guideRate := 7500, guideStep := 5000, terms := Terms.zero,
    waitCode := 2 }

/-- The level on a wire that is not at the polarity's active level. -/
def Level.inactive : Level → Level
  | .low => .high
  | .high => .low

/-- An input at power-on (R135): recognised INACTIVE when enabled, no last sample. -/
def Filter.powerOn (cfg : FilterCfg) (enabled : Bool) : Filter :=
  { cfg := cfg, enabled := enabled, last := none, recognised := if enabled then some false else none,
    wire := Level.inactive cfg.polarity, sampledAt := none }

/-- The twelve inputs at power-on (R135): ten always enabled, WIND and DOME disabled. -/
def PerInput.powerOn : PerInput Filter :=
  let d := PerInput.defaults
  { azPrePos := Filter.powerOn d.azPrePos true, azPreNeg := Filter.powerOn d.azPreNeg true,
    azFinPos := Filter.powerOn d.azFinPos true, azFinNeg := Filter.powerOn d.azFinNeg true,
    elPreLow := Filter.powerOn d.elPreLow true, elPreHigh := Filter.powerOn d.elPreHigh true,
    elFinLow := Filter.powerOn d.elFinLow true, elFinHigh := Filter.powerOn d.elFinHigh true,
    estop := Filter.powerOn d.estop true, wrapSide := Filter.powerOn d.wrapSide true,
    wind := Filter.powerOn d.wind false, dome := Filter.powerOn d.dome false }

/-- An axis at power-on (R27); the encoder channel's count is DESIGN CHOICE zero (log 8). -/
def AxisState.powerOn : AxisState :=
  { referenced := false, demand := 0, velocity := 0, profile := none, captured := false, actual := none,
    error := none, overSince := none, encoder := 0, zero := 0, search := none }

/-- The Motion Engine at power-on (R27, R169). -/
def Engine.powerOn : Engine :=
  { motion := .waking, az := AxisState.powerOn, el := AxisState.powerOn, offArc := 0, offEl := 0,
    cfg := AxisCfg.default, target := none, request := none, passage := none, arrivedAt := none,
    unparkAt := none, mismatch := false, encodersOn := true, backout := none, halting := false,
    disturbed := false, seen := none, demandAt := none }

/-- The clock at power-on (R1, R2). -/
def Clock.powerOn : Clock :=
  { timeBase := 0, isSet := false, anchorSite := 0, anchorBase := 0, refTime := 0, refAngle := 0, trim := none }

/-- An empty, disabled intercept slot (R91). -/
def Slot.blank : Slot := { id := none, on := false }

/-- The night list at power-on and after RSET (R78). -/
def NightList.blank : NightList :=
  { entries := [], current := none, slots := List.replicate 4 Slot.blank, draft := none }

/-- The empty run context (R96). -/
def RunCtx.blank : RunCtx :=
  { id := none, fired := false, startAt := none, estimate := none, record := none, accum := 0,
    countFrom := none, domeFrom := none, observed := false, goingOn := false }

/-- The runner at power-on and after RSET, which keeps the dome wait (R96). -/
def Runner.blank (domeWait : Ms) : Runner :=
  { state := .idle, holdAfter := false, windResume := false, domeWait := domeWait, ctx := RunCtx.blank }

/-- The Guide Unit at power-on and after RSET, which keeps the configuration (R124). -/
def Guide.blank (enable : Bool) (rate : Int) (step : Mas) : Guide :=
  { enable := enable, rate := rate, step := step, remA := 0, remE := 0, accA := 0, accE := 0, told := false,
    allowed := false, counted := none, applied := 0, superseded := 0, clipped := 0, saturated := false }

/-- The Fault Table at power-on and after RSET (R154). -/
def FaultTable.blank : FaultTable := { recs := List.replicate 8 none, order := [], overflow := false }

/-- The Alert Unit at power-on and after RSET (R162). -/
def Alerts.blank : Alerts :=
  { masked := true, mark := false, intercept := false, listEnd := false, plan := false, wind := false }

/-- A line at power-on (R180). -/
def LineState.blank : LineState := { buffer := [], charAt := 0, reply := none, muted := false }

/-- The Line Interface at power-on with the address the straps give (R180). -/
def LineIf.powerOn (straps : BitVec 5) : LineIf :=
  { a := LineState.blank, b := LineState.blank, locksA := [], locksB := [], last := none, msgErr := false,
    bcast := false, address := straps }

/-- Power Control at power-on (R168, R169) over the store as it then stands. The mark and the load result "are what
the load finds"; the code is 2 until the load ends. -/
def Power.powerOn (mark : Bool) (store : StoreImage) : Power :=
  { powered := true, loaded := false, restarting := false, mark := mark, loadResult := mark, writing := none,
    waitCode := 2, wait := some (0, 2000), store := store }

/-- The part right after power is applied (R169): power-on values everywhere, the defaults standing until the store
load ends (log 3). -/
def Part.powerOn (straps : BitVec 5) (mark : Bool) (store : StoreImage) : Part :=
  { power := Power.powerOn mark store, clock := Clock.powerOn,
    site := StoreImage.default.site, lastAz := none,
    model := { staged := Terms.zero, active := Terms.zero, generation := 0, pending := false },
    engine := Engine.powerOn, limits := Limits.default, list := NightList.blank,
    runner := Runner.blank StoreImage.default.domeWait, planner := { pass := none },
    guide := Guide.blank StoreImage.default.guideEnable StoreImage.default.guideRate StoreImage.default.guideStep,
    inputs := PerInput.powerOn,
    wind := { hold := false, timer := none, release := StoreImage.default.release,
              autoResume := StoreImage.default.autoResume },
    faults := FaultTable.blank, alerts := Alerts.blank, log := { records := [], next := 1 },
    line := LineIf.powerOn straps }

/-- The machine right after power-on (R169), with no command waiting. The straps read 0 and the store has never been
written, so its mark is INVALID: DESIGN CHOICE (log 4). -/
def State.reset : State :=
  { part := Part.powerOn 0 false StoreImage.default, pending := [] }

end Sys2Proof.Machine
end

