-- ==== Sys2Proof/Machine/Ops.lean ====
section
/-! DEFINITION. The shared operations of the blocks that only keep account: the clocks, the axes and inputs by name,
the Run Log, the Fault Table's recording, the Planner's request, model activation, the list's removal, and the guide
and dwell notices that every step ends with. -/

namespace Sys2Proof.Machine

/-! ### Clocks (R1, R2, R8) -/

/-- The present time-base reading (R1). -/
def Part.now (p : Part) : Ms := p.clock.timeBase

/-- Whether `len` ms of time base have run since `start` (R1). -/
def Part.ran (p : Part) (start len : Ms) : Bool := decide (start + len ≤ p.now)

/-- The trim correction of R2 at a time-base reading. -/
def trimCorrection (t : Option Trim) (b : Ms) : Int :=
  match t with
  | none => 0
  | some t => if b < t.start + 10000 then roundDiv (t.delta * ((b : Int) - (t.start : Int))) 10000 else t.delta

/-- The site clock's reading at time-base reading `b` while it is set (R2), saturating at the top of its range. -/
def Clock.readingAt (c : Clock) (b : Ms) : SiteTime :=
  min topTime (c.anchorSite + ((b : Int) - (c.anchorBase : Int)) + trimCorrection c.trim b)

/-- The site clock's reading now, absent while the clock is unset (R2). -/
def Clock.reading (c : Clock) : Option SiteTime := if c.isSet then some (c.readingAt c.timeBase) else none

/-- The reading a block that needs the clock evaluates at; a free constant while the clock is unset (log 2). -/
def Part.siteNow (p : Part) : SiteTime := p.clock.reading.getD Config.readingWhileUnset

/-- The sidereal angle of a site time (R8). -/
def Clock.sidereal (c : Clock) (t : SiteTime) : Mas :=
  normTurn (c.refAngle + (t - c.refTime) * 15041069 / 1000000)

/-- The tagged time of a report or record (R155, R165). -/
def Part.stamp (p : Part) : Stamp :=
  match p.clock.reading with
  | some t => .site t
  | none => .base p.now

/-- Whether the site clock is set and has reached `t`. -/
def Part.reachedTime (p : Part) (t : SiteTime) : Bool :=
  match p.clock.reading with
  | some r => decide (t ≤ r)
  | none => false

/-! ### Axes and inputs by name -/

/-- The state of one axis. -/
def Engine.axis (e : Engine) : Axis → AxisState
  | .az => e.az
  | .el => e.el

/-- Replace the state of one axis. -/
def Engine.setAxis (e : Engine) (x : Axis) (a : AxisState) : Engine :=
  match x with
  | .az => { e with az := a }
  | .el => { e with el := a }

/-- Apply one change to both axes. -/
def Engine.mapAxes (e : Engine) (f : AxisState → AxisState) : Engine := { e with az := f e.az, el := f e.el }

/-- The value held for an input. -/
def PerInput.get {α : Type} (v : PerInput α) : InputName → α
  | .azPrePos => v.azPrePos
  | .azPreNeg => v.azPreNeg
  | .azFinPos => v.azFinPos
  | .azFinNeg => v.azFinNeg
  | .elPreLow => v.elPreLow
  | .elPreHigh => v.elPreHigh
  | .elFinLow => v.elFinLow
  | .elFinHigh => v.elFinHigh
  | .estop => v.estop
  | .wrapSide => v.wrapSide
  | .wind => v.wind
  | .dome => v.dome

/-- Replace the value held for an input. -/
def PerInput.set {α : Type} (v : PerInput α) (i : InputName) (x : α) : PerInput α :=
  match i with
  | .azPrePos => { v with azPrePos := x }
  | .azPreNeg => { v with azPreNeg := x }
  | .azFinPos => { v with azFinPos := x }
  | .azFinNeg => { v with azFinNeg := x }
  | .elPreLow => { v with elPreLow := x }
  | .elPreHigh => { v with elPreHigh := x }
  | .elFinLow => { v with elFinLow := x }
  | .elFinHigh => { v with elFinHigh := x }
  | .estop => { v with estop := x }
  | .wrapSide => { v with wrapSide := x }
  | .wind => { v with wind := x }
  | .dome => { v with dome := x }

/-- The inputs in the order of the table of inputs. -/
def InputName.all : List InputName :=
  [.azPrePos, .azPreNeg, .azFinPos, .azFinNeg, .elPreLow, .elPreHigh, .elFinLow, .elFinHigh, .estop, .wrapSide,
   .wind, .dome]

/-- Whether an input is recognised ACTIVE (R135). -/
def Part.active (p : Part) (i : InputName) : Bool := (p.inputs.get i).recognised == some true

/-- The pre-limit of an axis on a side (EL low is the negative side). -/
def preLimit : Axis → Side → InputName
  | .az, .pos => .azPrePos
  | .az, .neg => .azPreNeg
  | .el, .pos => .elPreHigh
  | .el, .neg => .elPreLow

/-- The final limit of an axis on a side. -/
def finLimit : Axis → Side → InputName
  | .az, .pos => .azFinPos
  | .az, .neg => .azFinNeg
  | .el, .pos => .elFinHigh
  | .el, .neg => .elFinLow

/-- The other side. -/
def Side.flip : Side → Side
  | .pos => .neg
  | .neg => .pos

/-- The sign of a side. -/
def Side.sign : Side → Int
  | .pos => 1
  | .neg => -1

/-- The wrap side of a position (R55): POS when it is 0 or more. -/
def sideOf (x : Mas) : Side := if 0 ≤ x then .pos else .neg

/-- The fault source of an axis (R156). -/
def Axis.source : Axis → Source
  | .az => .azAxis
  | .el => .elAxis

/-- Whether a drive is enabled and its brake released (R28). -/
def Part.driveOn (p : Part) (x : Axis) : Bool :=
  p.power.powered &&
  match p.engine.motion with
  | .referencing | .unparking | .ready | .slewing | .settling | .tracking | .keyhole | .stopping | .parking
  | .stowing | .stowed => true
  | .backout => match p.engine.backout with
    | some b => b.axis == x
    | none => false
  | .unreferenced | .waking | .dormant | .parked | .tripped => false

/-- Whether a motion state is marked MOVING (R28). -/
def Motion.moving : Motion → Bool
  | .referencing | .slewing | .settling | .keyhole | .stopping | .parking | .stowing | .backout => true
  | _ => false

/-- Whether both axes are referenced. -/
def Part.referenced (p : Part) : Bool := p.engine.az.referenced && p.engine.el.referenced

/-! ### Run Log (R164 to R166) -/

/-- A record is open until it has an ended time or a superseded-by number (R166). -/
def RunRec.isOpen (r : RunRec) : Bool := r.ended.isNone && r.supersededBy.isNone

/-- Drop the oldest record that is not open (R164). -/
def dropOldestClosed : List RunRec → List RunRec
  | [] => []
  | r :: rs => if r.isOpen then r :: dropOldestClosed rs else rs

/-- A new record as R165 creates it. -/
def RunRec.fresh (seq : Nat) (origin : Origin) (kind : Kind) : RunRec :=
  { seq := seq, origin := origin, kind := kind, started := none, arrived := none, ended := none,
    supersededBy := none, outcome := none, dwell := 0, keyholeMs := 0, disturbedMs := 0, applied := 0,
    superseded := 0, clipped := 0, saturated := false, side := none, generation := none }

/-- Create a record: it takes the next sequence number, and a full ring loses its oldest closed record (R164). -/
def RunLog.create (l : RunLog) (origin : Origin) (kind : Kind) : RunLog :=
  { records := (if l.records.length < 64 then l.records else dropOldestClosed l.records)
      ++ [RunRec.fresh l.next origin kind],
    next := l.next + 1 }

/-- Change the record of a sequence number. -/
def RunLog.change (l : RunLog) (seq : Nat) (f : RunRec → RunRec) : RunLog :=
  { l with records := l.records.map fun r => if r.seq = seq then f r else r }

/-- The record of a sequence number. -/
def RunLog.find (l : RunLog) (seq : Nat) : Option RunRec := l.records.find? fun r => r.seq == seq

/-- Close an open record (R166); a record that is not open is left as it is. -/
def RunRec.close (r : RunRec) (outcome : Ending) (ended : Stamp) : RunRec :=
  if r.isOpen then { r with ended := some ended, outcome := some outcome } else r

/-- Mark an open record superseded (R166). -/
def RunRec.supersede (r : RunRec) (by_ : Nat) : RunRec :=
  if r.isOpen then { r with supersededBy := some by_ } else r

/-- Ask the Run Log for a record. -/
def createRecord (origin : Origin) (kind : Kind) (p : Part) : Part := { p with log := p.log.create origin kind }

/-- Change the record of a sequence number, when there is one. -/
def changeRecord (seq : Option Nat) (f : RunRec → RunRec) (p : Part) : Part :=
  match seq with
  | some n => { p with log := p.log.change n f }
  | none => p

/-- Close a record with an outcome and the present time (R45, R112). -/
def closeRecord (seq : Option Nat) (outcome : Ending) (p : Part) : Part :=
  changeRecord seq (fun r => r.close outcome p.stamp) p

/-- Mark a record superseded by a later one (R45, R116). -/
def supersedeRecord (seq : Option Nat) (by_ : Nat) (p : Part) : Part :=
  changeRecord seq (fun r => r.supersede by_) p

/-- A record created and closed at once (R103, R108, R109). -/
def createClosed (origin : Origin) (kind : Kind) (outcome : Ending) (p : Part) : Part :=
  closeRecord (some p.log.next) outcome (createRecord origin kind p)

/-! ### Fault Table: recording a report (R156, R157) -/

/-- The severity each reason has (R156). -/
def Reason.severity : Reason → Severity
  | .following | .finalLimit | .estop | .wrapMismatch | .noIndex | .backoutFailed => .trip
  | .preLimit | .softLimit | .zone | .domeTimeout => .abandon
  | .guideSaturated | .storeInvalid | .clockStep => .notice

/-- A report (R156). -/
structure Report where
  source : Source
  reason : Reason
  entry : Option Nat
  az : Option Mas
  el : Option Mas
  deriving DecidableEq, Repr

/-- Whether a record has a report's source and reason (R157). -/
def FaultRec.matches (r : FaultRec) (source : Source) (reason : Reason) : Bool :=
  r.source == source && r.reason == reason

/-- Fold a report into a matching record (R157). -/
def FaultRec.fold (r : FaultRec) (t : Stamp) : FaultRec := { r with count := min 255 (r.count + 1), last := t }

/-- Recording a report: fold, create at the lowest free index, or overflow (R157). -/
def FaultTable.record (ft : FaultTable) (r : Report) (t : Stamp) : FaultTable :=
  if ft.recs.any (fun o => o.any (·.matches r.source r.reason)) then
    { ft with recs := ft.recs.map fun o => o.map fun f => if f.matches r.source r.reason then f.fold t else f }
  else
    match ft.recs.findIdx? (·.isNone) with
    | some i =>
      { ft with
        recs := ft.recs.set i (some
          { severity := r.reason.severity, source := r.source, reason := r.reason, first := t, last := t,
            count := 1, entry := r.entry, az := r.az, el := r.el }),
        order := ft.order ++ [i] }
    | none => { ft with overflow := true }

/-- Record a report with the present time; a TRIP's further effect is `report`'s (R157, R158). -/
def recordFault (r : Report) (p : Part) : Part := { p with faults := p.faults.record r p.stamp }

/-- A report that carries an entry id and the two actual positions. -/
def Part.reportHere (p : Part) (source : Source) (reason : Reason) (entry : Option Nat) : Report :=
  { source := source, reason := reason, entry := entry, az := p.engine.az.actual, el := p.engine.el.actual }

/-- Whether a valid TRIP-severity record exists (R49). -/
def FaultTable.hasTrip (ft : FaultTable) : Bool := ft.recs.any fun o => o.any fun r => r.severity == .trip

/-- Whether the engine counts as tripped (R49). -/
def Part.countsTripped (p : Part) : Bool :=
  p.engine.motion == .tripped || p.engine.motion == .backout || p.faults.hasTrip || p.active .estop

/-! ### Planner request (R120), model activation (R24, R25) -/

/-- A plan record marked STALE (R94, R120). -/
def Entry.stale (e : Entry) : Entry := { e with plan := { e.plan with current := false } }

/-- A pass request (R120): while the clock is set, every record is STALE and a pass begins at position 1 from the
present reading and demands (R121); a pass over an empty list ends as it begins. -/
def requestPass (p : Part) : Part :=
  match p.clock.reading with
  | none => p
  | some t =>
    let first : Pass :=
      { cursor := 1, began := p.now, origin := t, az := p.engine.az.demand, el := p.engine.el.demand,
        behindPark := false }
    { p with
      list := { p.list with entries := p.list.entries.map Entry.stale },
      planner := { pass := if p.list.entries.isEmpty then none else some first } }

/-- An activation without its Planner request (R25; RSET's does not ask). -/
def Model.activate (m : Model) : Model :=
  { m with active := m.staged, generation := if m.generation = 65535 then 1 else m.generation + 1, pending := false }

/-- An activation (R25): the staged set becomes active and the Planner is asked for a pass, but not during an RSET. -/
def activate (p : Part) : Part :=
  let q := { p with model := p.model.activate }
  if p.power.restarting then q else requestPass q

/-- A boundary event (R24): a pending activation is made here. -/
def boundary (p : Part) : Part := if p.model.pending then activate p else p

/-! ### Night List: removal and the head -/

/-- The head entry (R78). -/
def Part.head (p : Part) : Option Entry := p.list.entries.head?

/-- The entry of an id with its position from 0. -/
def NightList.find (l : NightList) (id : Nat) : Option Entry := l.entries.find? fun e => e.id == id

/-- The position of an id, counted from 1 (R78). -/
def NightList.position (l : NightList) (id : Nat) : Nat := (l.entries.findIdx fun e => e.id == id) + 1

/-- The entry leaves the list and the marker that named it is cleared; the Planner is asked for a pass (R86). -/
def removeEntry (id : Nat) (p : Part) : Part :=
  requestPass { p with list := { p.list with
    entries := p.list.entries.filter (fun e => e.id != id),
    current := if p.list.current = some id then none else p.list.current } }

/-- The run record kind of an entry (R165). -/
def Body.kind : Body → Kind
  | .sky .. => .sky
  | .altaz .. => .altaz
  | .axis .. => .axis
  | .mark => .mark
  | .park => .park

/-- The dwell an entry asks for; a MARK or PARK asks for none. -/
def Body.dwell : Body → Ms
  | .sky _ _ d => d
  | .altaz _ _ d => d
  | .axis _ _ d => d
  | .mark => 0
  | .park => 0

/-- The coordinates of an entry that has a target (R79). -/
def Entry.coords (e : Entry) : Option Coords :=
  match e.body with
  | .sky ra dec _ => some (.sky ra dec e.opts.rates)
  | .altaz az alt _ => some (.altaz az alt)
  | .axis az el _ => some (.axis az el)
  | .mark => none
  | .park => none

/-! ### Guide notices (R34, R125, R126, R132) -/

/-- The guide counters written into the counted record (R132). -/
def writeCounters (p : Part) : Part :=
  changeRecord p.guide.counted (fun r =>
    { r with applied := p.guide.applied, superseded := p.guide.superseded, clipped := p.guide.clipped,
             saturated := p.guide.saturated }) p

/-- The engine's condition for guiding (R34): TRACKING, the target's guide flag on, a record attached. -/
def Part.guidingCondition (p : Part) : Bool :=
  p.engine.motion == .tracking &&
  match p.engine.target with
  | some t => t.given.guide && t.given.record.isSome
  | none => false

/-- The attached record of the current target (R27). -/
def Part.attached (p : Part) : Option Nat := p.engine.target.bind fun t => t.given.record

/-- The engine's notice to the Guide Unit (R125): leaving the allowed state zeroes the remainder, entering it under
another record zeroes the counters and takes that record. -/
def noticeGuide (p : Part) : Part :=
  let told := p.guidingCondition
  let allowed := told && p.guide.enable
  let g := { p.guide with told := told, allowed := allowed }
  if p.guide.allowed && !allowed then { p with guide := { g with remA := 0, remE := 0 } }
  else if !p.guide.allowed && allowed && p.guide.counted != p.attached then
    { p with guide := { g with counted := p.attached, applied := 0, superseded := 0, clipped := 0,
                               saturated := false } }
  else { p with guide := g }

/-- The reset at a slew start and at a keyhole exit (R126). -/
def guideReset (p : Part) : Part :=
  { p with guide := { p.guide with remA := 0, remE := 0, accA := 0, accE := 0 } }

/-! ### Dwell counting (R111) -/

/-- DOME is disabled or recognised ACTIVE, read from the Input Filters (R148). -/
def Part.domeOk (p : Part) : Bool := !p.inputs.dome.enabled || p.inputs.dome.recognised == some true

/-- The runner's entry is the one the engine follows: the attached record is the runner's (R97). -/
def Part.onEntry (p : Part) : Bool :=
  match p.runner.ctx.record with
  | some r => p.attached == some r
  | none => false

/-- Whether dwell counts (R111). -/
def Part.dwellCounts (p : Part) : Bool :=
  p.runner.state == .observing && p.engine.motion == .tracking && p.onEntry && p.domeOk

/-- The accumulated dwell including any time still counting (R111, R166). -/
def Part.dwellSoFar (p : Part) : Ms :=
  p.runner.ctx.accum + match p.runner.ctx.countFrom with
  | some b => p.now - b
  | none => 0

/-- Counting starts and stops with R111's condition; the time counted so far is added when it stops. -/
def noticeDwell (p : Part) : Part :=
  match p.dwellCounts, p.runner.ctx.countFrom with
  | true, none => { p with runner := { p.runner with ctx := { p.runner.ctx with countFrom := some p.now } } }
  | false, some _ => { p with runner := { p.runner with
      ctx := { p.runner.ctx with accum := p.dwellSoFar, countFrom := none } } }
  | _, _ => p

/-- What every step ends with: the notices that follow the engine's, the inputs' and the runner's new state. -/
def notices (p : Part) : Part := noticeDwell (noticeGuide p)

end Sys2Proof.Machine
end

