-- ==== Sys2Proof/Machine/Profile.lean ====
section
/-! DEFINITION. The continuous-time motion of one axis over one demand interval of 10 ms (R32, R33, R37, R145, R147),
in fixed point: positions in units of 1/`fx` mas, velocities in units of 1/`fx` mas/s, times in units of 1/`fx` s.
Constant acceleration from a representable state is exact; only square roots and fractions of an interval are rounded
down, to about 2^-78 (log 7). -/

namespace Sys2Proof.Machine

/-- The unit of the profile: 20,000 · 2^64, so that a / 20,000 mas (half of a over an interval) is representable. -/
def fx : Int := 368934881474191032320000

/-- One demand interval, 10 ms (R29). -/
def interval : Int := fx / 100

/-- What a stretch of motion comes to: the distance moved toward the destination and the velocity at its end. -/
structure Moved where
  dist : Int
  vel : Int
  deriving DecidableEq, Repr

/-- Deceleration at `a` along the stopping curve for time `t` from velocity `u`, `s` short of the destination (R32). -/
def decelPhase (a s u t : Int) : Moved :=
  let u' := u - a * t
  if u' ≤ 0 then { dist := s, vel := 0 } else { dist := (u + u') * t / (2 * fx), vel := u' }

/-- Cruise at `v` until the braking distance v²/(2a), then deceleration (R32). -/
def cruisePhase (a v s t : Int) : Moved :=
  let braking := v * v * fx / (2 * a)
  let vq := v * fx
  if s ≤ braking then decelPhase a s vq t
  else
    let t2 := (s - braking) / v
    if t ≤ t2 then { dist := v * t, vel := vq }
    else
      let m := decelPhase a braking vq (t - t2)
      { m with dist := m.dist + (s - braking) }

/-- Acceleration at `a` from velocity `u`, which is below the stopping speed, until it meets the top speed `v` or the
stopping curve at √((u² + 2as)/2); then cruise or deceleration (R32). -/
def accelPhase (a v s u t : Int) : Moved :=
  let u1 := u + a * t
  let meet : Int := (floorSqrt ((u * u + 2 * a * s * fx) / 2).toNat : Nat)
  let peak := min (v * fx) meet
  let t1 := (peak - u) / a
  if t ≤ t1 then { dist := (u + u1) * t / (2 * fx), vel := u1 }
  else
    let d1 := (peak * peak - u * u) / (2 * a * fx)
    let m := if meet < v * fx then decelPhase a (s - d1) peak (t - t1) else cruisePhase a v (s - d1) (t - t1)
    { m with dist := m.dist + d1 }

/-- Motion above the stopping speed: deceleration at `a`. Above the stopping curve it passes the destination, comes to rest
beyond it and turns back to it; below the curve it comes down to the top speed and goes on at it (R32). -/
def overspeedPhase (a v s u t : Int) : Moved :=
  let u1 := u - a * t
  if 2 * a * s * fx < u * u then
    if t ≤ u / a then { dist := (u + u1) * t / (2 * fx), vel := u1 }
    else
      let whole := u * u / (2 * a * fx)
      let back := accelPhase a v (whole - s) 0 (t - u / a)
      { dist := whole - back.dist, vel := -back.vel }
  else
    let t1 := (u - v * fx) / a
    if t ≤ t1 then { dist := (u + u1) * t / (2 * fx), vel := u1 }
    else
      let d1 := (u * u - v * v * fx * fx) / (2 * a * fx)
      let m := cruisePhase a v (s - d1) (t - t1)
      { m with dist := m.dist + d1 }

/-- One interval of the slew profile, with the destination ahead at distance `s ≥ 0` (R32). The interval that follows a
slew start or a redirect runs its whole 10 ms from the latest demand: DESIGN CHOICE (log 49). -/
def towardPhase (a v s u : Int) : Moved :=
  if 0 ≤ u ∧ (v * fx < u ∨ 2 * a * s * fx < u * u) then overspeedPhase a v s u interval
  else accelPhase a v s u interval

/-- A fixed-point position rounded to the nearest mas, halves away from zero (R32). -/
def roundPos (x : Int) : Mas := roundDiv x fx

/-- The profile position of an axis: where its profile stands, or its demand when it takes a profile up (R32). -/
def AxisState.profileStart (x : AxisState) : Int := x.profile.getD (x.demand * fx)

/-- The demand velocity of a demand that changed from `old` to `new` over one interval (R29). -/
def changeVelocity (old new : Mas) : Int := (new - old) * 100 * fx

/-- An axis whose demand is set to `d` without a profile: a captured axis, a tracked or settling one (R29, R33). -/
def AxisState.follow (x : AxisState) (d : Mas) : AxisState :=
  { x with demand := d, velocity := changeVelocity x.demand d, profile := none }

/-- An axis one interval along its profile toward a destination (R32). -/
def AxisState.advance (x : AxisState) (a v : Int) (toward : Mas) : AxisState :=
  let p0 := x.profileStart
  let away := toward * fx - p0
  let ahead : Bool := decide (0 < away) || (decide (away = 0) && decide (0 ≤ x.velocity))
  let m := if ahead then towardPhase a v away x.velocity else towardPhase a v (-away) (-x.velocity)
  let p1 := if ahead then p0 + m.dist else p0 - m.dist
  { x with demand := roundPos p1, velocity := if ahead then m.vel else -m.vel, profile := some p1 }

/-- Whether a new demand captures an axis on `dest` (R33): it lies within the tolerance, or the interval from the demand
before it reaches or passes `dest`. -/
def captures (tol : Mas) (before after dest : Mas) : Bool :=
  within tol (dest - after) || between (min before after) (max before after) dest

/-- One interval of a slew (R32, R33): the profile has run toward the destination found at the evaluation before, and
capture is judged against `dest`, the destination of this interval. The velocity of the interval that captures is the change
of demand over it (R29), where the worked example after R53 shows 0: DEDUCED (log 61). -/
def AxisState.slewTo (x : AxisState) (a v tol : Int) (toward dest : Mas) : AxisState :=
  if x.captured then x.follow dest
  else
    let y := x.advance a v toward
    if captures tol x.demand y.demand dest then { x.follow dest with captured := true } else y

/-- A velocity brought toward `goal` at rate `a` over one interval, with the distance it covers (R37, R145, R147). -/
def rampVelocity (a u goal : Int) : Int × Int :=
  let dv := a * interval
  if u = goal then (goal, goal * interval / fx)
  else if u < goal then
    if u + dv ≤ goal then (u + dv, (2 * u + dv) * interval / (2 * fx))
    else (goal, (goal * goal - u * u) / (2 * a * fx) + goal * (interval - (goal - u) / a) / fx)
  else
    if goal ≤ u - dv then (u - dv, (2 * u - dv) * interval / (2 * fx))
    else (goal, (u * u - goal * goal) / (2 * a * fx) + goal * (interval - (u - goal) / a) / fx)

/-- One interval of an axis whose demand velocity is driven toward `goal` (mas/s, fixed point) at rate `a`. -/
def AxisState.drive (x : AxisState) (a goal : Int) : AxisState :=
  let r := rampVelocity a x.velocity goal
  let p1 := x.profileStart + r.2
  { x with demand := roundPos p1, velocity := r.1, profile := some p1 }

/-- An axis that holds its demand (R28, "held"). -/
def AxisState.hold (x : AxisState) : AxisState := { x with velocity := 0, profile := none }

/-- R30's clamp: a demand outside `[lo, hi]` becomes the limit it passed, with velocity 0. -/
def AxisState.clampDemand (x : AxisState) (lo hi : Mas) : AxisState :=
  if x.demand < lo then { x with demand := lo, velocity := 0, profile := none }
  else if hi < x.demand then { x with demand := hi, velocity := 0, profile := none }
  else x

end Sys2Proof.Machine
end

