-- ==== Sys2Proof/Machine/Sky.lean ====
section
/-! DEFINITION. The pointing pipeline (01, 02): rated place, hour angle, horizon place, refraction, offsets and model
stage; and the point tests of the Limit Checker (05). -/

namespace Sys2Proof.Machine

/-- The Sky Calculator's result: apparent altitude, sky azimuth, hour angle in [0, T) (R11, R16). -/
structure Place where
  alt : Mas
  az : Mas
  hour : Mas
  deriving DecidableEq, Repr

/-- The rate term of R12. -/
def rateTerm (rate : Mas) (t epoch : SiteTime) : Mas := roundDiv (rate * (t - epoch)) 3600000

/-- The rated right ascension α(t) (R12). -/
def ratedRa (ra : Mas) (rates : Option Rates) (t : SiteTime) : Mas :=
  match rates with
  | none => normTurn ra
  | some r => normTurn (ra + rateTerm r.ra t r.epoch)

/-- The rated declination δ(t), clamped (R12). -/
def ratedDec (dec : Mas) (rates : Option Rates) (t : SiteTime) : Mas :=
  match rates with
  | none => dec
  | some r => clampTo (-quarterTurn) quarterTurn (dec + rateTerm r.dec t r.epoch)

/-- The hour angle H in [0, T) (R11). -/
def hourAngle (theta ra : Mas) : Mas := normTurn (theta - ra)

/-- The northward and vertical components and the eastward one of a place, in fixed point (R13). -/
def horizonEast (dec hour : Mas) : Int := -(cosMas dec * sinMas hour / fixOne)

/-- sin δ · cos φ − cos δ · cos H · sin φ (R13). -/
def horizonNorth (lat dec hour : Mas) : Int :=
  sinMas dec * cosMas lat / fixOne - cosMas dec * cosMas hour / fixOne * sinMas lat / fixOne

/-- sin φ · sin δ + cos φ · cos δ · cos H (R13). -/
def horizonUp (lat dec hour : Mas) : Int :=
  sinMas lat * sinMas dec / fixOne + cosMas lat * cosMas dec / fixOne * cosMas hour / fixOne

/-- Exactly at the zenith or the nadir, where the azimuth is not defined (R13). -/
def atZenithOrNadir (lat dec hour : Mas) : Bool :=
  decide ((dec = lat ∧ hour = 0) ∨ (dec = -lat ∧ hour = halfTurn))

/-- The true altitude (R13), by atan2 of the vertical against the horizontal component: the same angle as the arcsine
of the rule, well conditioned up to the zenith. -/
def trueAltitude (lat dec hour : Mas) : Mas :=
  let e := horizonEast dec hour
  let n := horizonNorth lat dec hour
  if atZenithOrNadir lat dec hour then (if dec = lat ∧ hour = 0 then quarterTurn else -quarterTurn)
  else roundFix (atan2Fix (horizonUp lat dec hour) (sqrtFix ((e * e + n * n) / fixOne)))

/-- The azimuth in [0, T) (R13); at the exact zenith or nadir the last demanded sky azimuth, or 0 (R14). -/
def skyAzimuth (lat dec hour : Mas) (lastAz : Option Mas) : Mas :=
  if atZenithOrNadir lat dec hour then lastAz.getD 0
  else normTurn (roundFix (atan2Fix (horizonEast dec hour) (horizonNorth lat dec hour)))

/-- The refraction of a true altitude (R15). -/
def refractionOf (k alt : Mas) : Mas :=
  if 323999999 ≤ alt then 0
  else
    let a := max alt 18000000
    roundFix (k * cosMas a * fixOne / sinMas a)

/-- The Sky Calculator's evaluation of a target at a site time (R11 to R16); an AXIS target has none. -/
def placeAt (p : Part) (c : Coords) (t : SiteTime) : Option Place :=
  match c with
  | .sky ra dec rates =>
    let d := ratedDec dec rates t
    let h := hourAngle (p.clock.sidereal t) (ratedRa ra rates t)
    let alt := trueAltitude p.site.latitude d h
    some { alt := alt + refractionOf p.site.refraction alt, az := skyAzimuth p.site.latitude d h p.lastAz, hour := h }
  | .altaz az alt => some { alt := alt, az := az, hour := 0 }
  | .axis _ _ => none

/-- The azimuth change of a total arc offset (R17). -/
def arcToAzimuth (arc alt : Mas) : Mas :=
  if arc = 0 then 0 else roundFix (arc * fixOne * fixOne / cosMas (min (if alt < 0 then -alt else alt) cap89))

/-- The altitude at which the model's secant, tangent and cosine are taken (R19). -/
def modelAltitude (e : Mas) : Mas := clampTo 0 cap89 e

/-- The azimuth correction of the model stage (R19). -/
def azCorrection (m : Terms) (a e : Mas) : Mas :=
  let em := modelAltitude e
  let sec := fixOne * fixOne / cosMas em
  let tan := sinMas em * fixOne / cosMas em
  roundFix (m.ia * fixOne + m.ca * sec + m.np * tan + m.an * sinMas a * tan / fixOne
    - m.ae * cosMas a * tan / fixOne)

/-- The elevation correction of the model stage (R19). -/
def elCorrection (m : Terms) (a e : Mas) : Mas :=
  roundFix (m.ie * fixOne + m.tf * cosMas (modelAltitude e) + m.an * cosMas a + m.ae * sinMas a)

/-- A pair of axis positions, the azimuth raw or placed. -/
structure AxisPair where
  az : Mas
  el : Mas
  deriving DecidableEq, Repr

/-- Offsets stage and model stage over the active set (R17, R19, R20). -/
def modelStage (m : Terms) (pl : Place) (arc up : Mas) : AxisPair :=
  let e := clampTo (-quarterTurn) quarterTurn (pl.alt + up)
  let a := normTurn (pl.az + arcToAzimuth arc pl.alt)
  { az := a + azCorrection m a e, el := e + elCorrection m a e }

/-- What a target asks of the axes at a site time: its place (none for AXIS) and the raw axis positions. -/
structure Aim where
  place : Option Place
  axes : AxisPair
  deriving DecidableEq, Repr

/-- Evaluate a target with the given total offsets (R16 to R20); an AXIS target passes through neither stage. -/
def aimWith (p : Part) (c : Coords) (t : SiteTime) (arc up : Mas) : Aim :=
  match c with
  | .axis az el => { place := none, axes := { az := az, el := el } }
  | c =>
    match placeAt p c t with
    | some pl => { place := some pl, axes := modelStage p.model.active pl arc up }
    | none => { place := none, axes := { az := 0, el := 0 } }

/-- Evaluate with zero offsets: start checks, predictions, wrap choices, keyhole exits (R18). -/
def aimAt (p : Part) (c : Coords) (t : SiteTime) : Aim := aimWith p c t 0 0

/-- Evaluate for a demand: the user and guide offsets as they stand (R18). -/
def aimDemand (p : Part) (c : Coords) : Aim :=
  aimWith p c p.siteNow (p.engine.offArc + p.guide.accA) (p.engine.offEl + p.guide.accE)

/-- The last demanded sky azimuth is set by an evaluation made for a demand (R14). -/
def noteAzimuth (a : Aim) (p : Part) : Part :=
  match a.place with
  | some pl => { p with lastAz := some pl.az }
  | none => p

/-! ### Limit Checker (R69, R70, R72) -/

/-- The mask value at a sky azimuth in [0, T) (R69). -/
def maskAt (l : Limits) (a : Mas) : Mas :=
  let i := (a / 36000000).toNat
  let mi := l.mask.getD i 0
  let mj := l.mask.getD (if i = 35 then 0 else i + 1) 0
  roundDiv (mi * 36000000 + (mj - mi) * (a - (i : Int) * 36000000)) 36000000

/-- The effective lower altitude at a sky azimuth (R70). -/
def effectiveLower (p : Part) (minAlt : Option Mas) (a : Mas) : Mas :=
  let m := max (maskAt p.limits a) p.engine.cfg.elLo
  match minAlt with
  | some x => max m x
  | none => m

/-- Whether a place stands at or above its effective lower altitude (R70). -/
def standsAbove (p : Part) (minAlt : Option Mas) (pl : Place) : Bool :=
  decide (effectiveLower p minAlt pl.az ≤ pl.alt)

/-- Whether an enabled zone contains a position (R72). -/
def Zone.holds (z : Zone) (q : AxisPair) : Bool :=
  z.on && between z.azMin z.azMax q.az && between z.elMin z.elMax q.el

/-- Whether a position lies in the zone table (R72). -/
def inZones (l : Limits) (q : AxisPair) : Bool := l.zones.any fun z => z.holds q

/-- The indexes of the enabled zones that contain a position, in increasing order (R77). -/
def zonesAt (l : Limits) (q : AxisPair) : List Nat :=
  (List.range l.zones.length).filter fun i => (l.zones.getD i Zone.blank).holds q

/-- Whether an azimuth-axis position lies within the soft limits. -/
def azInside (c : AxisCfg) (x : Mas) : Bool := between c.azLo c.azHi x

/-- Whether an elevation-axis position lies within the soft limits. -/
def elInside (c : AxisCfg) (x : Mas) : Bool := between c.elLo c.elHi x

end Sys2Proof.Machine
end

