-- ==== Sys2Proof/Machine/Wrap.lean ====
section
/-! DEFINITION. The cable wrap (04): candidates, sampled paths, the wrap choice and its fallbacks, the keyhole direction,
and the slew time estimate (R53). -/

namespace Sys2Proof.Machine

/-- The least value `r + n·T` that is not below `lo`. -/
def firstFrom (lo r : Mas) : Mas := lo + normTurn (r - lo)

/-- The candidates of a raw azimuth in increasing order (R55). The soft span is at most a turn and a half (R50), so no
more than two values `r + n·T` lie in it. -/
def candidates (c : AxisCfg) (r : Mas) : List Mas :=
  let f := firstFrom c.azLo r
  [f, f + turn].filter fun x => decide (x ≤ c.azHi)

/-- The sample instants of R57: every 60,000 ms from `ts`, and the end. -/
def sampleTimes (ts : SiteTime) (len : Ms) : List SiteTime :=
  let grid := (List.range (len / 60000 + 1)).map fun (j : Nat) => ts + 60000 * (j : Int)
  if len % 60000 = 0 then grid else grid ++ [ts + (len : Int)]

/-- A sample: its instant and the target's evaluation then. -/
structure Sample where
  at_t : SiteTime
  aim : Aim
  deriving DecidableEq, Repr

/-- The samples of a target (R57); an ALTAZ or AXIS target is the same at every instant. -/
def samplesOf (p : Part) (c : Coords) (ts : SiteTime) (len : Ms) : List Sample :=
  match c with
  | .sky .. => (sampleTimes ts len).map fun t => { at_t := t, aim := aimAt p c t }
  | _ => let aim := aimAt p c ts; (sampleTimes ts len).map fun t => { at_t := t, aim := aim }

/-- Whether a target is a SKY target whose evaluation lies in the keyhole cone (R58, R63). -/
def inCone (p : Part) (c : Coords) (a : Aim) : Bool :=
  match c, a.place with
  | .sky .., some pl => decide (p.engine.cfg.keyAlt ≤ pl.alt)
  | _, _ => false

/-- The direction of the target's azimuth at an instant: the sign of A(t) − A(t − 1,000); 0 counts as increasing (R64). -/
def directionAt (p : Part) (c : Coords) (t : SiteTime) : Side :=
  match placeAt p c t, placeAt p c (t - 1000) with
  | some a, some b => if 0 ≤ signedTurn (a.az - b.az) then .pos else .neg
  | _, _ => .pos

/-- The position that continues from `z` to raw azimuth `r` in a direction (R58, R64). -/
def continuing (z r : Mas) : Side → Mas
  | .pos => z + normTurn (r - z)
  | .neg => z - normTurn (z - r)

/-- The same azimuth reached the other way, one turn apart (R58, R64). -/
def otherWay (z r : Mas) (d : Side) : Mas := continuing z r d - d.sign * turn

/-- A placed position with the instant it belongs to. -/
structure Placed where
  at_t : SiteTime
  az : Mas
  deriving DecidableEq, Repr

/-- Place one sample after the last placed one (R57, R58). `gap` says that in-cone samples lie between them. -/
def placeNext (p : Part) (c : Coords) (prev : Placed) (gap : Bool) (s : Sample) : Mas :=
  if gap then
    let d := directionAt p c prev.at_t
    let x := continuing prev.az s.aim.axes.az d
    let y := otherWay prev.az s.aim.axes.az d
    if azInside p.engine.cfg x then x else if azInside p.engine.cfg y then y else x
  else nearTurn prev.az s.aim.axes.az

/-- The placed positions of the samples after the first (R57, R58). -/
def pathAfter (p : Part) (c : Coords) : Placed → Bool → List Sample → List Mas
  | _, _, [] => []
  | prev, gap, s :: rest =>
    if inCone p c s.aim then pathAfter p c prev true rest
    else
      let x := placeNext p c prev gap s
      x :: pathAfter p c { at_t := s.at_t, az := x } false rest

/-- The placed positions of a candidate's path, the first of them the candidate itself (R57, R58). A first sample in the
cone has its place there and opens no run of in-cone samples: DEDUCED (log 52). -/
def pathFrom (p : Part) (c : Coords) (cand : Mas) : List Sample → List Mas
  | [] => []
  | s :: rest => cand :: pathAfter p c { at_t := s.at_t, az := cand } false rest

/-- Whether a path fits: every placed position within the azimuth soft limits (R59). -/
def pathFits (cfg : AxisCfg) (path : List Mas) : Bool := path.all (azInside cfg)

/-- The in-limit run of a path (R60). -/
def pathRun (cfg : AxisCfg) (path : List Mas) : Nat := (path.takeWhile (azInside cfg)).length

/-- |x|. -/
def absInt (x : Int) : Int := if x < 0 then -x else x

/-- Whether `x` is taken before `y`: the smaller absolute value, then the positive one (R59). -/
def tieBefore (x y : Mas) : Bool :=
  decide (absInt x < absInt y) || (decide (absInt x = absInt y) && decide (y ≤ x))

/-- Whether `x` is taken before `y` under a preference (R59). -/
def prefBefore (pref : Pref) (near : Mas) (x y : Mas) : Bool :=
  match pref with
  | .near =>
    let dx := absInt (x - near)
    let dy := absInt (y - near)
    decide (dx < dy) || (decide (dx = dy) && tieBefore x y)
  | .pos => if (sideOf x == sideOf y) then tieBefore x y else sideOf x == .pos
  | .neg => if (sideOf x == sideOf y) then tieBefore x y else sideOf x == .neg

/-- The preferred one of some positions (R59). -/
def preferred (pref : Pref) (near : Mas) : List Mas → Option Mas
  | [] => none
  | x :: rest =>
    match preferred pref near rest with
    | none => some x
    | some y => some (if prefBefore pref near x y then x else y)

/-- The result of a wrap choice: a fitting candidate, else the longest run, else none at all (R59, R60). -/
inductive WrapResult where
  | fits (cand : Mas)
  | longest (cand : Mas)
  | none
  deriving DecidableEq, Repr

/-- The candidates whose run is the longest, when that run is not 0 (R60). -/
def longestRun (cfg : AxisCfg) (paths : List (Mas × List Mas)) : List Mas :=
  let best := paths.foldl (fun m q => max m (pathRun cfg q.2)) 0
  if best = 0 then [] else (paths.filter fun q => pathRun cfg q.2 == best).map Prod.fst

/-- The wrap choice (R57 to R60); an AXIS target takes its given position with no fit test. -/
def wrapChoice (p : Part) (c : Coords) (ts : SiteTime) (len : Ms) (pref : Pref) (near : Mas) : WrapResult :=
  match c with
  | .axis az _ => .fits az
  | c =>
    let samples := samplesOf p c ts len
    match samples with
    | [] => .none
    | s :: _ =>
      let paths := (candidates p.engine.cfg s.aim.axes.az).map fun x => (x, pathFrom p c x samples)
      match preferred pref near ((paths.filter fun q => pathFits p.engine.cfg q.2).map Prod.fst) with
      | some x => .fits x
      | none =>
        match preferred pref near (longestRun p.engine.cfg paths) with
        | some x => .longest x
        | none => .none

/-- The position of raw azimuth `r` nearest to the interval of the soft limits when none lies inside it (R60); at equal
distance the tie of R59 decides. -/
def nearestOutside (c : AxisCfg) (r : Mas) : Mas :=
  let above := firstFrom c.azLo r
  let below := above - turn
  let da := above - c.azHi
  let db := c.azLo - below
  if da < db then above else if db < da then below else if tieBefore above below then above else below

/-- The azimuth soft limit that stands in where there is no candidate at all (R105): the one nearest to the target's azimuth,
in whichever of its positions lies closest to the limits, not to the present demand: DESIGN CHOICE (log 66). -/
def nearestLimit (c : AxisCfg) (r : Mas) : Mas :=
  if nearestOutside c r < c.azLo then c.azLo else c.azHi

/-! ### Slew time estimate (R53) -/

/-- The time of one axis in ms, rounded up (R53); the ceiling of the larger time is the larger ceiling. -/
def axisMillis (d v a : Int) : Int :=
  if v * v ≤ d * a then ceilDiv (1000 * (d * a + v * v)) (v * a)
  else if d = 0 then 0
  else (ceilSqrt (ceilDiv (4000000 * d) a).toNat : Nat)

/-- The slew time estimate between two pairs of axis positions (R53). -/
def slewEstimate (c : AxisCfg) (src dst : AxisPair) : Ms :=
  (max (axisMillis (absInt (dst.az - src.az)) c.azVmax c.accel)
       (axisMillis (absInt (dst.el - src.el)) c.elVmax c.accel) + c.settle).toNat

/-- The present pair of axis demands. -/
def Part.demands (p : Part) : AxisPair := { az := p.engine.az.demand, el := p.engine.el.demand }

/-- The destination a wrap choice gives for an estimate: the candidate, the longest run, or the nearest limit (R105). -/
def choiceAz (p : Part) (a : Aim) : WrapResult → Mas
  | .fits x => x
  | .longest x => x
  | .none => nearestLimit p.engine.cfg a.axes.az

/-- One evaluation of R105: the destination of the target evaluated at `t`, by a wrap choice there. -/
def destinationAt (p : Part) (c : Coords) (t : SiteTime) (dwell : Ms) (pref : Pref) (src : AxisPair) : AxisPair :=
  let a := aimAt p c t
  { az := choiceAz p a (wrapChoice p c t dwell pref src.az), el := a.axes.el }

/-- The destination of R105's second evaluation, at `t` and the estimate E1 of the first. -/
def arrivalFrom (p : Part) (c : Coords) (dwell : Ms) (pref : Pref) (src : AxisPair) (t : SiteTime) : AxisPair :=
  let e1 := slewEstimate p.engine.cfg src (destinationAt p c t dwell pref src)
  destinationAt p c (t + (e1 : Int)) dwell pref src

/-- The estimate E of R105, from `src` at `t`, by two evaluations. -/
def estimateFrom (p : Part) (c : Coords) (dwell : Ms) (pref : Pref) (src : AxisPair) (t : SiteTime) : Ms :=
  slewEstimate p.engine.cfg src (arrivalFrom p c dwell pref src t)

end Sys2Proof.Machine
end

