-- ==== Sys2Proof/Machine/Engine.lean ====
section
/-! DEFINITION. The Motion Engine's changes of state (03, 04, 09): leaving a target, slew start and redirect, stopping,
arriving in READY, parking, unparking, stowing, and what a trip does to it. What a demand interval does is in
Interval.lean. -/

namespace Sys2Proof.Machine

/-- Add the keyhole time so far to the attached record (R66). -/
def bankPassage (p : Part) : Part :=
  match p.engine.passage with
  | some k => changeRecord p.attached (fun r => { r with keyholeMs := r.keyholeMs + (p.now - k.entered) }) p
  | none => p

/-- A passage or its chase is left other than by arriving in TRACKING: the time is added and the passage record
discarded (R63, R66). -/
def leavePassage (p : Part) : Part :=
  let p := bankPassage p
  { p with engine := { p.engine with passage := none } }

/-- Close an attached GOTO record with an outcome (R45); a list record is the List Runner's. -/
def endGoto (outcome : Ending) (p : Part) : Part :=
  match p.engine.target with
  | some t => match t.given.origin with
    | .goto => closeRecord t.given.record outcome p
    | .list _ => p
  | none => p

/-- Both axes released from capture and ready to take up a profile from their demands. -/
def Engine.freshProfiles (e : Engine) : Engine := e.mapAxes fun x => { x with captured := false, profile := none }

/-- The engine without a target, a passage or a waiting request. -/
def Engine.dropTarget (e : Engine) : Engine :=
  { e with target := none, passage := none, request := none, arrivedAt := none }

/-- Step 1 of R31, and R44: the passage is banked and discarded, and a GOTO record is superseded by the new record, or
closed ENDED when its target had reached TRACKING (R45). -/
def leaveForSlew (newSeq : Nat) (p : Part) : Part :=
  let p := leavePassage p
  match p.engine.target with
  | some t => match t.given.origin with
    | .goto => if t.reached then closeRecord t.given.record .ended p else supersedeRecord t.given.record newSeq p
    | .list _ => p
  | none => p

/-- The first instant and the span of the engine's own wrap choice (R57, R109). -/
def choiceSpan (p : Part) (g : Assignment) : SiteTime × Ms :=
  match g.estimate, g.dwell with
  | some e, some d => (p.siteNow + (e : Int), d)
  | _, _ => (p.siteNow, 3600000)

/-- The engine's own wrap choice at a slew start or redirect (R57, R60). -/
def engineChoice (p : Part) (g : Assignment) : WrapResult :=
  let s := choiceSpan p g
  wrapChoice p g.coords s.1 s.2 g.pref p.engine.az.demand

/-- The candidate the engine takes: the choice, the longest run, or, where every run is 0, that position of the first sample's
azimuth which lies nearest to the soft interval (R60; DEDUCED, log 26). -/
def engineCandidate (p : Part) (g : Assignment) : Mas :=
  match engineChoice p g with
  | .fits x => x
  | .longest x => x
  | .none => nearestOutside p.engine.cfg (aimAt p g.coords (choiceSpan p g).1).axes.az

/-- Steps 4 and 5 of R31: evaluate, choose, fill in the target record and write the run record's start (R61, R165). The first
destination is the position of the present azimuth nearest to the candidate, whatever the candidate is. A choice whose every
run is 0 is kept with the target for the slew's first interval (R60). -/
def takeTarget (g : Assignment) (p : Part) : Part :=
  let a := aimAt p g.coords p.siteNow
  let cand := engineCandidate p g
  let t : Target :=
    { given := g, destAz := nearTurn cand a.axes.az, destEl := a.axes.el, side := sideOf cand, arrived := false,
      reached := false, noRun := engineChoice p g == .none }
  let p := { p with engine := { p.engine with target := some t, arrivedAt := none } }
  changeRecord g.record (fun r =>
    { r with started := some p.stamp, side := some (sideOf cand), generation := some p.model.generation }) p

/-- A slew start, steps 2 to 5 of R31. -/
def slewStart (g : Assignment) (p : Part) : Part :=
  let p := boundary p
  let p := { p with engine := { p.engine.freshProfiles with
    motion := .slewing, offArc := 0, offEl := 0, request := none } }
  takeTarget g (guideReset p)

/-- A redirect (R44): the profile carries on, captured axes are released, no boundary, offsets untouched. -/
def redirect (g : Assignment) (p : Part) : Part :=
  takeTarget g { p with engine := p.engine.mapAxes fun x => { x with captured := false } }

/-- Whether both demand velocities are 0. -/
def Engine.atRest (e : Engine) : Bool := decide (e.az.velocity = 0 ∧ e.el.velocity = 0)

/-- Entering STOWING (R151): the target is discarded; a boundary. -/
def enterStowing (p : Part) : Part :=
  let p := leavePassage p
  boundary { p with engine := { p.engine.freshProfiles.dropTarget with motion := .stowing, halting := false } }

/-- Arrival in READY (R35): a boundary, then a stow when a hold is in force, or the slew start that waited for the end
of an unpark (R109). -/
def readyArrival (p : Part) : Part :=
  let waiting := p.engine.request
  let p := boundary { p with engine := { p.engine.freshProfiles.dropTarget with
    motion := .ready, halting := false, unparkAt := none } }
  if p.wind.hold then enterStowing p
  else match waiting with
    | some g => slewStart g p
    | none => p

/-- STOPPING that has come to rest enters READY (R37). -/
def restCheck (p : Part) : Part :=
  if p.engine.motion == .stopping && p.engine.atRest then readyArrival p else p

/-- Entering STOPPING (R37): a boundary, the target discarded, and READY at once when nothing moves (spec/95: STOP_AT_REST
also within STOP, GIVE_UP, DOME_TIMEOUT, QSKP and INPUT_RECOGNITION; within the other steps that stop the engine: DEDUCED,
log 67). -/
def enterStopping (p : Part) : Part :=
  let p := leavePassage p
  restCheck (boundary { p with engine := { p.engine.freshProfiles.dropTarget with motion := .stopping } })

/-- Entering PARKING (R39). -/
def enterParking (p : Part) : Part :=
  let p := leavePassage p
  boundary { p with engine := { p.engine.freshProfiles.dropTarget with motion := .parking, unparkAt := none } }

/-- An axis whose drive is being enabled: its demand is its actual position, at rest (R28). -/
def AxisState.enableHere (x : AxisState) : AxisState :=
  { x with demand := x.actual.getD x.demand, velocity := 0, profile := none, captured := false }

/-- Entering UNPARKING (R40): both drives on, holding the actual positions; the 1,000 ms wait starts. -/
def enterUnparking (p : Part) : Part :=
  { p with engine := { p.engine.mapAxes AxisState.enableHere with motion := .unparking, unparkAt := some p.now } }

/-- An axis whose drive is being disabled (R28, R39, R48, R49). Its demand is its actual position, unclamped by R30: DEDUCED
(log 62). -/
def AxisState.disableHere (x : AxisState) : AxisState :=
  { x with demand := x.actual.getD x.demand, velocity := 0, profile := none, captured := false,
           error := none, overSince := none }

/-- An axis that is no longer referenced: it has no actual position. -/
def AxisState.unreference (x : AxisState) : AxisState :=
  { x with referenced := false, actual := none, search := none }

/-- What a TRIP-severity report does to the engine (R49, R158): nothing moves in TRIPPED, PARKED or DORMANT; otherwise a
GOTO record closes TRIPPED, the drives go off and the engine enters TRIPPED, which is a boundary. A reference run is
abandoned with both axes unreferenced (R145). -/
def engineTrip (p : Part) : Part :=
  match p.engine.motion with
  | .tripped | .parked | .dormant => p
  | m =>
    let p := endGoto .tripped (leavePassage p)
    let e := (p.engine.mapAxes AxisState.disableHere).dropTarget
    let e := if m = .referencing then e.mapAxes AxisState.unreference else e
    boundary { p with engine := { e with
      motion := .tripped, halting := false, backout := none, unparkAt := none, disturbed := false,
      mismatch := if m = .referencing then false else e.mismatch } }

/-- The runner's request to stop (R110, R113, R115): as STOP does, for the states that STOP sends to STOPPING. -/
def stopMotion (p : Part) : Part :=
  match p.engine.motion with
  | .slewing | .settling | .tracking | .keyhole | .parking => enterStopping p
  | _ => p

/-- What the start of a wind hold does to the engine (R151, R45). -/
def engineHold (p : Part) : Part :=
  match p.engine.motion with
  | .ready | .slewing | .settling | .tracking | .keyhole => enterStowing (endGoto .stowed (leavePassage p))
  | _ => p

/-- What the end of a wind hold does to the engine (R152). -/
def engineRelease (p : Part) : Part :=
  match p.engine.motion with
  | .stowed => readyArrival p
  | .stowing => enterStopping { p with engine := { p.engine with halting := false } }
  | _ => p

end Sys2Proof.Machine
end

