-- ==== Sys2Proof/Machine/Runner.lean ====
section
/-! DEFINITION. The List Runner (07): taking up the head, the start check, beginning work, closing an entry, and what the
engine, the dome, the wind and the trips tell it. -/

namespace Sys2Proof.Machine

/-! ### Runner states -/

/-- ACQUIRING or OBSERVING: an entry is being worked (R97). -/
def RunState.working : RunState → Bool
  | .acquiring => true
  | .observing => true
  | _ => false

/-- "Running" (R97). -/
def RunState.running : RunState → Bool
  | .idle => false
  | .held _ => false
  | _ => true

/-- The entry of the run context. -/
def Part.ctxEntry (p : Part) : Option Entry := p.runner.ctx.id.bind p.list.find

/-- Whether the entry being worked is a PARK entry (R104). -/
def Part.parkCurrent (p : Part) : Bool :=
  p.runner.state.working && match p.ctxEntry with
    | some e => e.body == .park
    | none => false

/-- Whether the engine has arrived on the worked entry's target (R115). -/
def Part.arrivedOnEntry (p : Part) : Bool :=
  p.onEntry && match p.engine.target with
    | some t => t.arrived
    | none => false

/-- Entering HELD: the visit ends and hold-after-current is cleared (R99). -/
def enterHeld (r : HeldReason) (p : Part) : Part :=
  { p with runner := { p.runner with state := .held r, holdAfter := false, ctx := RunCtx.blank } }

/-- Entering IDLE. -/
def enterIdle (p : Part) : Part :=
  { p with runner := { p.runner with state := .idle, holdAfter := false, ctx := RunCtx.blank } }

/-- Entering EMPTY sets LIST_END (R101). -/
def enterEmpty (p : Part) : Part :=
  { p with runner := { p.runner with state := .empty, ctx := RunCtx.blank },
           alerts := { p.alerts with listEnd := true } }

/-- Going on after a close (R112 step 4): to HELD/HOST when hold-after-current is set, else to the next head. -/
def goOnWith (next : Part → Part) (p : Part) : Part :=
  if p.runner.holdAfter then enterHeld .host p else next p

/-- EMPTY with the next head yet to be taken up (R95, R112 step 4): DESIGN CHOICE (log 55). -/
def awaitHead (p : Part) : Part :=
  { p with runner := { p.runner with state := .empty, ctx := { RunCtx.blank with goingOn := true } } }

/-- Going on after a close that an event brings: the step ends before the next head is taken up, so that what the Night List
takes first finds the entry gone and no other current (R95). -/
def goOnLater (p : Part) : Part := goOnWith awaitHead p

/-- Whether the next head is to be taken up. -/
def Part.goesOn (p : Part) : Bool := p.runner.state == .empty && p.runner.ctx.goingOn

/-! ### The start check (R105 to R107) -/

/-- What the tests of R107 come to: the outcome, the chosen azimuth and the samples. -/
structure Check where
  outcome : Predicted
  az : Mas
  samples : List Sample
  deriving DecidableEq, Repr

/-- Whether a sample passes the altitude tests (R107): no place, exempt in the cone, or at or above the lower altitude. -/
def sampleStands (p : Part) (e : Entry) (c : Coords) (s : Sample) : Bool :=
  match s.aim.place with
  | none => true
  | some pl => inCone p c s.aim || standsAbove p e.opts.minAlt pl

/-- Test 3's answer: the chosen candidate, or none when nothing fits (R107). -/
def fittingAz (p : Part) (e : Entry) (c : Coords) (ta : SiteTime) (near : Mas) : Option Mas :=
  match c with
  | .axis az el => if azInside p.engine.cfg az && elInside p.engine.cfg el then some az else none
  | c => match wrapChoice p c ta e.body.dwell (e.opts.wrap.getD .near) near with
    | .fits x => some x
    | .longest _ => none
    | .none => none

/-- The tests of R107 with `ta` as the expected dwell start. -/
def checkEntry (p : Part) (e : Entry) (c : Coords) (near : Mas) (ta : SiteTime) : Check :=
  let samples := samplesOf p c ta e.body.dwell
  let answer (o : Predicted) (az : Mas) : Check := { outcome := o, az := az, samples := samples }
  if e.opts.notAfter.any (fun t => decide (t < ta)) then answer .miss 0
  else if !(samples.head?.all (sampleStands p e c)) then answer .low 0
  else match fittingAz p e c ta near with
    | none => answer .wrap 0
    | some az =>
      if inZones p.limits { az := az, el := (aimAt p c ta).axes.el } then answer .zone az
      else if !(samples.tail.all (sampleStands p e c)) then answer .setsEarly az
      else answer .run az

/-- The outcome of the run record of a failed test (R107); a passing check has none. -/
def Predicted.skip : Predicted → Option Ending
  | .run => none
  | .miss => some .skippedMissed
  | .low => some .skippedLow
  | .wrap => some .skippedWrap
  | .zone => some .skippedZone
  | .setsEarly => some .setsEarly

/-! ### Beginning work (R104, R109) -/

/-- Whether the engine refuses a runner's request, and with what outcome (R109). `ok` says that the state is one that
answers the request. -/
def requestRefused (ok : Bool) (p : Part) : Option (Ending × HeldReason) :=
  if p.countsTripped then some (.tripped, .trip)
  else if p.wind.hold then some (.stowed, .wind)
  else if ok then none
  else some (.stopped, .stop)

/-- The states that answer a target (R109). -/
def Motion.takesTarget : Motion → Bool
  | .ready | .settling | .tracking | .keyhole | .stopping | .slewing | .parked | .unparking => true
  | _ => false

/-- The present site time as a record's started time (R104). -/
def startRecord (seq : Nat) (p : Part) : Part :=
  changeRecord (some seq) (fun r => { r with started := some p.stamp }) p

/-- The record of a refused request, closed with the outcome; a PARK entry's has its started time from its creation (R104,
R109, R165). -/
def refusedRecord (e : Entry) (outcome : Ending) (p : Part) : Part :=
  let seq := p.log.next
  let p := createRecord (.list e.id) e.body.kind p
  closeRecord (some seq) outcome (if e.body == .park then startRecord seq p else p)

/-- A refused request: the record is closed with dwell 0, the entry leaves, and the runner is held (R109). -/
def refuseWork (e : Entry) (r : Ending × HeldReason) (p : Part) : Part :=
  let p := enterHeld r.2 (removeEntry e.id (refusedRecord e r.1 p))
  if r.2 = .wind then { p with runner := { p.runner with windResume := true } } else p

/-- The current marker set on the entry, and the Planner asked for a pass (R109, R120). -/
def markCurrent (e : Entry) (p : Part) : Part :=
  requestPass { p with list := { p.list with current := some e.id } }

/-- A GOTO's record that the stop of a restart has left open, its target discarded, closes RESTARTED when a record is opened
after all: at most one is open (R164, R166). DESIGN CHOICE (log 75). -/
def endLeftOpen (p : Part) : Part :=
  match p.log.records.find? RunRec.isOpen with
  | some r => if p.power.restarting then closeRecord (some r.seq) .restarted p else p
  | none => p

/-- An open record for the entry, and ACQUIRING with its sequence number (R109). -/
def openWork (e : Entry) (estimate : Option Ms) (p : Part) : Part :=
  let seq := p.log.next
  let p := endLeftOpen p
  let p := createRecord (.list e.id) e.body.kind p
  { p with runner := { p.runner with
      state := .acquiring,
      ctx := { RunCtx.blank with id := some e.id, estimate := estimate, record := some seq } } }

/-- The engine's response to a target it takes (R109): slew start, redirect, or a request kept for the end of an unpark. -/
def engineTakes (g : Assignment) (p : Part) : Part :=
  match p.engine.motion with
  | .slewing => redirect g p
  | .parked =>
    let p := enterUnparking p
    { p with engine := { p.engine with request := some g } }
  | .unparking => { p with engine := { p.engine with request := some g } }
  | _ => slewStart g p

/-- Whether the target is left by the slew start or redirect at once (not from PARKED or UNPARKING). -/
def Motion.slewsNow : Motion → Bool
  | .parked => false
  | .unparking => false
  | _ => true

/-- Beginning work on a SKY, ALTAZ or AXIS entry (R109). A GOTO record that the slew start leaves is ended before the entry's
record is created, so a full ring may drop that very record: DESIGN CHOICE (log 58). -/
def beginWork (goOn : Part → Part) (e : Entry) (c : Coords) (estimate : Ms) (p : Part) : Part :=
  let p := markCurrent e p
  if e.opts.giveUp.any p.reachedTime then
    goOn (removeEntry e.id (createClosed (.list e.id) e.body.kind .timedOut p))
  else match requestRefused p.engine.motion.takesTarget p with
    | some r => refuseWork e r p
    | none =>
      let seq := p.log.next
      let p := if p.engine.motion.slewsNow then leaveForSlew seq p else p
      let g : Assignment :=
        { origin := .list e.id, coords := c, pref := e.opts.wrap.getD .near, guide := e.opts.guide,
          dwell := some e.body.dwell, estimate := some estimate, minAlt := e.opts.minAlt, record := some seq }
      engineTakes g (openWork e (some estimate) p)

/-- A skip (R108, R115). -/
def skipEntry (goOn : Part → Part) (e : Entry) (outcome : Ending) (p : Part) : Part :=
  goOn (removeEntry e.id (createClosed (.list e.id) e.body.kind outcome p))

/-- The start check with a new estimate (R106, R107). -/
def startCheck (goOn : Part → Part) (e : Entry) (c : Coords) (p : Part) : Part :=
  let estimate := estimateFrom p c e.body.dwell (e.opts.wrap.getD .near) p.demands p.siteNow
  match (checkEntry p e c p.engine.az.demand (p.siteNow + (estimate : Int))).outcome.skip with
  | some outcome => skipEntry goOn e outcome p
  | none => beginWork goOn e c estimate p

/-- The window rule (R106): WAITING until not-before − E, or the start check at once. -/
def decideTarget (goOn : Part → Part) (e : Entry) (c : Coords) (p : Part) : Part :=
  match e.opts.notBefore with
  | none => startCheck goOn e c p
  | some nb =>
    let estimate := estimateFrom p c e.body.dwell (e.opts.wrap.getD .near) p.demands p.siteNow
    if p.siteNow < nb - (estimate : Int) then
      { p with runner := { p.runner with
          state := .waiting,
          ctx := { p.runner.ctx with startAt := some (nb - (estimate : Int)), estimate := some estimate } } }
    else startCheck goOn e c p

/-- A MARK entry (R103). -/
def decideMark (goOn : Part → Part) (e : Entry) (p : Part) : Part :=
  let p := removeEntry e.id (createClosed (.list e.id) .mark .markReached p)
  let p := { p with alerts := { p.alerts with mark := true } }
  if e.opts.hold then enterHeld .mark p else goOn p

/-- The states that answer a park request (R38). -/
def Motion.takesPark : Motion → Bool
  | .ready | .unparking | .slewing | .settling | .tracking | .keyhole | .stopping => true
  | _ => false

/-- The engine's part of a PARK that is taken (R38, R45). -/
def enginePark (p : Part) : Part :=
  if p.engine.motion.takesPark then enterParking (endGoto .ended (leavePassage p)) else p

/-- A passage on the worked entry's target adds its keyhole time to the record before it is dealt with (R66). -/
def bankWorked (p : Part) : Part := if p.onEntry then bankPassage p else p

/-- The accumulated dwell is written into the worked record as dwell achieved (R112 step 1). -/
def writeDwell (p : Part) : Part :=
  changeRecord p.runner.ctx.record (fun r => if r.isOpen then { r with dwell := p.dwellSoFar } else r) p

/-- The worked entry leaves the list (R112 step 2). -/
def dropEntry (p : Part) : Part :=
  match p.runner.ctx.id with
  | some id => removeEntry id p
  | none => p

/-- The record is detached from the target the engine follows, and the run context is left empty (R112 step 3). -/
def detach (p : Part) : Part :=
  let target := if p.onEntry then p.engine.target.map fun t => { t with given := { t.given with record := none } }
    else p.engine.target
  { p with engine := { p.engine with target := target, request := none },
           runner := { p.runner with ctx := RunCtx.blank } }

/-- Write the worked record's dwell and its end, remove the entry, detach the record, and leave the context empty
(R112 steps 1 to 3). -/
def closeWork (finish : Option Nat → Part → Part) (p : Part) : Part :=
  detach (dropEntry (finish p.runner.ctx.record (writeDwell (bankWorked p))))

/-- A worked entry closed with an outcome. -/
def closeAs (outcome : Ending) (p : Part) : Part := closeWork (fun seq => closeRecord seq outcome) p

/-- The states in which a park request is not refused (R38). -/
def Motion.parkAllowed (m : Motion) : Bool := m.takesPark || m == .parking || m == .parked || m == .dormant

/-- The work of a PARK entry (R104): its record starts at once and closes at the arrival in PARKED. A GOTO record is ended
before it is created: DESIGN CHOICE (log 58). -/
def workPark (e : Entry) (p : Part) : Part :=
  let p := enginePark p
  let seq := p.log.next
  let p := startRecord seq (openWork e none p)
  if p.engine.motion = .parked then enterIdle (closeAs .parked p) else p

/-- A PARK entry (R104); a request that R38 refuses ends it as R109 lays down. -/
def decidePark (e : Entry) (p : Part) : Part :=
  let p := markCurrent e p
  if p.engine.motion.parkAllowed then workPark e p
  else refuseWork e ((requestRefused false p).getD (.stopped, .stop)) p

/-- Deciding an entry by its kind (R101). -/
def decideWith (goOn : Part → Part) (e : Entry) (p : Part) : Part :=
  match e.coords, e.body with
  | some c, _ => decideTarget goOn e c p
  | none, .mark => decideMark goOn e p
  | none, _ => decidePark e p

/-- Whether an enabled intercept slot holds an id (R91). -/
def NightList.trapped (l : NightList) (id : Nat) : Bool := l.slots.any fun s => s.on && s.id == some id

/-- Deciding the entry of a visit: an enabled slot that holds its id stops the runner, unless it has fired in this visit
(R91, R101, R102). -/
def decideVisit (goOn : Part → Part) (e : Entry) (p : Part) : Part :=
  if p.list.trapped e.id && !p.runner.ctx.fired then
    { p with runner := { p.runner with state := .intercept, ctx := { p.runner.ctx with fired := true } },
             alerts := { p.alerts with intercept := true } }
  else decideWith goOn e p

/-- Taking up the head (R101). Every entry decided and not worked leaves the list, so the list's length bounds the
number of heads taken up. -/
def takeUpFuel : Nat → Part → Part
  | 0, p => p
  | n + 1, p =>
    match p.head with
    | none => enterEmpty p
    | some e =>
      let visit := { RunCtx.blank with id := some e.id }
      decideVisit (goOnWith (takeUpFuel n)) e { p with runner := { p.runner with ctx := visit } }

/-- Taking up the head (R101). -/
def takeUp (p : Part) : Part := takeUpFuel (p.list.entries.length + 1) p

/-- Going on after a close (R112 step 4). -/
def goOn (p : Part) : Part := goOnWith takeUp p

/-! ### What the runner is told -/

/-- The Night List's reports of a new head (R102): only in EMPTY, WAITING and INTERCEPT, and only when the head is not
the entry of the present visit. In the gap after a close (log 55) every report of a change takes up the head, one that
changes no head too: DESIGN CHOICE (log 55). -/
def noticeHead (p : Part) : Part :=
  match p.runner.state with
  | .empty => if p.head.isSome then takeUp p else p
  | .waiting => if p.head.map Entry.id = p.runner.ctx.id then p else takeUp p
  | .intercept => if p.head.map Entry.id = p.runner.ctx.id then p else takeUp p
  | _ => p

/-- The Night List's report that the head was substituted (R102): in WAITING the entry is decided afresh within its visit. -/
def noticeSubstituted (p : Part) : Part :=
  match p.runner.state, p.head with
  | .waiting, some e => decideVisit goOn e { p with runner := { p.runner with
      ctx := { p.runner.ctx with startAt := none, estimate := none } } }
  | _, _ => p

/-- A trip reaches the runner (R118). -/
def runnerTrip (p : Part) : Part :=
  let p := if p.runner.state.working then closeAs .tripped p else p
  let p := match p.runner.state with
    | .idle => p
    | _ => enterHeld .trip p
  { p with runner := { p.runner with windResume := false } }

/-- The start of a wind hold reaches the runner (R119). -/
def runnerWind (p : Part) : Part :=
  if !p.runner.state.running || p.parkCurrent then p
  else
    let p := if p.runner.state.working then closeAs .stowed p else p
    let p := enterHeld .wind p
    { p with runner := { p.runner with windResume := true } }

/-- A GOTO taken reaches the runner (R116). -/
def runnerGoto (p : Part) : Part :=
  if !p.runner.state.running then p
  else
    let p := if !p.runner.state.working then p
      else if p.arrivedOnEntry then closeAs .interrupted p
      else closeWork (fun seq q => supersedeRecord seq q.log.next q) p
    enterHeld .goto p

/-- A STOP reaches the runner (R117). -/
def runnerStop (p : Part) : Part :=
  if !p.runner.state.running then p
  else enterHeld .stop (if p.runner.state.working then closeAs .stopped p else p)

/-- A PARK taken reaches the runner (R117). -/
def runnerPark (p : Part) : Part :=
  if !p.runner.state.running || p.parkCurrent then p
  else enterHeld .park (if p.runner.state.working then closeAs .parked p else p)

/-- The engine has arrived in PARKED: a PARK entry closes and the runner is IDLE (R104). -/
def runnerParked (p : Part) : Part := if p.parkCurrent then enterIdle (closeAs .parked p) else p

/-- The engine has ended the worked entry's target, or the park of a PARK entry (R114, R140). -/
def runnerEnding (outcome : Ending) (wasOnEntry : Bool) (p : Part) : Part :=
  if p.runner.state.working && wasOnEntry then goOnLater (closeAs outcome p) else p

/-! ### Reports (R157, R158) -/

/-- A report: recorded, folded or lost, and then its effect by severity. -/
def report (r : Report) (p : Part) : Part :=
  let p := recordFault r p
  match r.reason.severity with
  | .trip => runnerTrip (engineTrip p)
  | .abandon => p
  | .notice => p

/-! ### The dome (R110, R148) -/

/-- The absence of DOME has lasted the dome wait: DOME_TIMEOUT (R110). -/
def domeTimeout (p : Part) : Part :=
  let p := report (p.reportHere .list .domeTimeout p.runner.ctx.id) p
  goOnLater (stopMotion (closeAs .domeTimeout p))

/-- Whether a timed absence of DOME has lasted the dome wait. -/
def Part.domeExpired (p : Part) : Bool :=
  p.runner.state.working && match p.runner.ctx.domeFrom with
    | some b => p.ran b p.runner.domeWait
    | none => false

/-- End the entry when the absence has already lasted the wait (R110, R153). -/
def domeCheck (p : Part) : Part := if p.domeExpired then domeTimeout p else p

/-- Start timing an absence, unless one is being timed. -/
def startAbsence (p : Part) : Part :=
  match p.runner.ctx.domeFrom with
  | some _ => p
  | none => domeCheck { p with runner := { p.runner with ctx := { p.runner.ctx with domeFrom := some p.now } } }

/-- Entering OBSERVING. -/
def enterObserving (p : Part) : Part :=
  { p with runner := { p.runner with state := .observing, ctx := { p.runner.ctx with observed := true } } }

/-- The engine has entered TRACKING (R110, R111). The look at DOME is for the first TRACKING; an absence that the enabling
of DOME began before goes on being timed there (log 29). -/
def runnerTracking (p : Part) : Part :=
  if !(p.runner.state == .acquiring && p.onEntry) then p
  else if p.runner.ctx.observed then enterObserving p
  else if p.runner.ctx.domeFrom.isSome then p
  else if p.domeOk then enterObserving p
  else startAbsence p

/-- The engine has left KEYHOLE for the chase (R111). -/
def runnerChase (p : Part) : Part :=
  if p.runner.state == .observing && p.onEntry then { p with runner := { p.runner with state := .acquiring } } else p

/-- Whether the engine has entered TRACKING on the worked entry's target (R110). -/
def Part.reachedOnEntry (p : Part) : Bool :=
  p.onEntry && match p.engine.target with
    | some t => t.reached
    | none => false

/-- DOME recognised ACTIVE, or disabled: a timed absence ends, and the runner enters OBSERVING, at once or, after the first
TRACKING, when the engine next enters TRACKING (R110; before the first TRACKING, log 29). -/
def domePresent (p : Part) : Part :=
  if !p.runner.state.working || p.runner.ctx.domeFrom.isNone then p
  else
    let p := { p with runner := { p.runner with ctx := { p.runner.ctx with domeFrom := none } } }
    if p.onEntry && (p.engine.motion == .tracking || p.engine.motion == .keyhole) then enterObserving p
    else { p with runner := { p.runner with
      ctx := { p.runner.ctx with observed := p.runner.ctx.observed || p.reachedOnEntry } } }

/-- DOME recognised INACTIVE after the first TRACKING starts an absence (R110). -/
def domeAbsent (p : Part) : Part := if p.runner.state.working && p.reachedOnEntry then startAbsence p else p

/-- DOME enabled while an entry with a target is current starts an absence (R110). -/
def domeEnabled (p : Part) : Part :=
  if p.runner.state.working && !p.parkCurrent then startAbsence p else p

/-! ### Give-up, dwell and start instant (R106, R111, R113) -/

/-- Whether the worked entry's give-up has been reached. -/
def Part.giveUpDue (p : Part) : Bool :=
  p.runner.state.working && match p.ctxEntry with
    | some e => e.opts.giveUp.any p.reachedTime
    | none => false

/-- The entry closes TIMED_OUT; before arrival the engine is asked to stop (R113). -/
def giveUp (p : Part) : Part :=
  if p.giveUpDue then
    let arrived := p.arrivedOnEntry
    let p := closeAs .timedOut p
    goOnLater (if arrived then p else stopMotion p)
  else p

/-- Whether the accumulated dwell has reached the entry's dwell. -/
def Part.dwellDue (p : Part) : Bool :=
  p.runner.state == .observing && match p.ctxEntry with
    | some e => decide (e.body.dwell ≤ p.dwellSoFar)
    | none => false

/-- The entry closes COMPLETE (R111). -/
def dwellComplete (p : Part) : Part := if p.dwellDue then goOnLater (closeAs .complete p) else p

/-- Whether the start instant of WAITING has been reached. -/
def Part.startDue (p : Part) : Bool := p.runner.state == .waiting && p.runner.ctx.startAt.any p.reachedTime

/-- The start check of a waiting entry (R106). -/
def startInstant (p : Part) : Part :=
  if p.startDue then
    match p.ctxEntry with
    | some e => match e.coords with
      | some c => startCheck goOn e c p
      | none => p
    | none => p
  else p

/-- What a changed site clock brings at once: give-up (R113) and the start instant (R106). -/
def clockChanged (p : Part) : Part := startInstant (giveUp p)

/-! ### Host control (R98, R99, R100, R115) -/

/-- The checks of R98, in order. -/
def runChecks (p : Part) : Option Result :=
  if !p.clock.isSet then some .noClock
  else match p.engine.motion with
    | .unreferenced | .waking | .referencing | .dormant | .parking => some .state
    | _ => if p.wind.hold then some .wind else if p.countsTripped then some .tripped else none

/-- Start running from IDLE or HELD (R98). -/
def startRunning (p : Part) : Part :=
  takeUp { p with runner := { p.runner with state := .empty, holdAfter := false, windResume := false,
                                            ctx := RunCtx.blank } }

/-- The end of a wind hold reaches the runner (R119): it resumes as a QRES would, if the checks let it. -/
def runnerRelease (p : Part) : Part :=
  if p.runner.state == .held .wind && p.runner.windResume && p.wind.autoResume && (runChecks p).isNone then
    startRunning p
  else p

/-- QSKP's effect on the head entry (R115). -/
def skipHead (p : Part) : Part :=
  match p.runner.state with
  | .waiting | .intercept => match p.ctxEntry with
    | some e => skipEntry goOn e .skippedHost p
    | none => p
  | .acquiring | .observing =>
    let arrived := p.arrivedOnEntry
    let p := closeAs .skippedHost p
    goOn (if arrived then p else stopMotion p)
  | _ => p

end Sys2Proof.Machine
end

