-- ==== Sys2Proof/Machine/Guide.lean ====
section
/-! DEFINITION. The Guide Unit (08): taking a correction, and the ramp step of a demand interval. -/

namespace Sys2Proof.Machine

/-- A count of 0 to 65,535 that stays at its top (R124). -/
def satCount (n : Nat) : Nat := min 65535 n

/-- How many of the two components exceed the max step (R128). -/
def clippedCount (step : Mas) (da de : Mas) : Nat :=
  (if within step da then 0 else 1) + (if within step de then 0 else 1)

/-- A taken correction: clipped, counted, and put in place of the remainder (R128, R129). -/
def Guide.take (g : Guide) (da de : Mas) : Guide :=
  { g with
    remA := clampTo (-g.step) g.step da,
    remE := clampTo (-g.step) g.step de,
    applied := satCount (g.applied + 1),
    superseded := satCount (g.superseded + if g.remA = 0 ∧ g.remE = 0 then 0 else 1),
    clipped := satCount (g.clipped + clippedCount g.step da de) }

/-- The largest |accumulated offset| of an axis (R131). -/
def guideBound : Mas := 60000

/-- What a ramp step does to one axis: the new accumulated offset, the new remainder, whether it saturated. -/
structure RampStep where
  acc : Mas
  rem : Mas
  saturated : Bool
  deriving DecidableEq, Repr

/-- One step of the ramp on one axis (R130, R131); `s` is the step limit. -/
def rampStep (s acc rem : Mas) : RampStep :=
  let step := clampTo (-s) s rem
  if within guideBound (acc + step) then { acc := acc + step, rem := rem - step, saturated := false }
  else { acc := clampTo (-guideBound) guideBound (acc + step), rem := 0, saturated := true }

/-- The report of a saturation (R131): the counted record's entry id and the two actual positions. -/
def saturationReport (p : Part) : Report :=
  let entry := p.guide.counted.bind fun n => (p.log.find n).bind fun r =>
    match r.origin with
    | .list id => some id
    | .goto => none
  p.reportHere .guide .guideSaturated entry

/-- One saturation: the report and the saturated flag (R131, R132). -/
def saturate (b : Bool) (p : Part) : Part :=
  if b then
    let p := report (saturationReport p) p
    writeCounters { p with guide := { p.guide with saturated := true } }
  else p

/-- The ramp step of a demand interval, both axes at the same limit (R130, R131). -/
def guideRamp (p : Part) : Part :=
  if p.guide.allowed then
    let s := roundDiv p.guide.rate 100
    let a := rampStep s p.guide.accA p.guide.remA
    let e := rampStep s p.guide.accE p.guide.remE
    let p := { p with guide := { p.guide with accA := a.acc, remA := a.rem, accE := e.acc, remE := e.rem } }
    saturate e.saturated (saturate a.saturated p)
  else p

/-- A correction taken: the Guide Unit's state and the counted record (R128 to R132). -/
def takeCorrection (da de : Mas) (p : Part) : Part := writeCounters { p with guide := p.guide.take da de }

end Sys2Proof.Machine
end

