-- ==== Sys2Proof/Machine/Interval.lean ====
section
/-! DEFINITION. One demand interval (R29): reading the encoders, the following errors and their runs, the wrap cross-check,
and the new demand of each motion state with the arrivals and endings it brings (03, 04, 05, 09). -/

namespace Sys2Proof.Machine

/-! ### Endings (R62, R73, R74, R75) -/

/-- An ending's report, made when a record is attached (R45). -/
def reportEnding (rep : Option Report) (p : Part) : Part :=
  match rep with
  | some r => if p.attached.isSome then report r p else p
  | none => p

/-- A target ends: its report, the GOTO record, STOPPING, then the runner's close (R45, R114). -/
def endTarget (outcome : Ending) (rep : Option Report) (p : Part) : Part :=
  runnerEnding outcome p.onEntry (enterStopping (endGoto outcome (leavePassage (reportEnding rep p))))

/-- The entry id of a list target. -/
def Target.entry (t : Target) : Option Nat :=
  match t.given.origin with
  | .list id => some id
  | .goto => none

/-- Whether a target followed in TRACKING has set (R62). -/
def hasSet (p : Part) (t : Target) (place : Option Place) (tracking : Bool) : Bool :=
  tracking && match place with
    | some pl => !(standsAbove p t.given.minAlt pl)
    | none => false

/-- Whether the azimuth ends a target LIMIT at an interval: the position tested lies outside the soft limits (R62), or this is
the first interval of a slew whose choice found every run 0 (R60). -/
def azEnds (p : Part) (t : Target) (az : Mas) : Bool :=
  !(azInside p.engine.cfg az) || (t.noRun && p.engine.motion == .slewing)

/-- A target's ending, if an evaluation meets one: ZONE, then SET (only in TRACKING), then LIMIT (R75). `q` is the
position tested. -/
def endingAt (p : Part) (t : Target) (place : Option Place) (q : AxisPair) (tracking : Bool) :
    Option (Ending × Option Report) :=
  if inZones p.limits q then some (.zone, some (p.reportHere .limits .zone t.entry))
  else if hasSet p t place tracking then some (.set, none)
  else if azEnds p t q.az then some (.limit, some (p.reportHere .azAxis .softLimit t.entry))
  else if !(elInside p.engine.cfg q.el) then some (.limit, some (p.reportHere .elAxis .softLimit t.entry))
  else none

/-! ### Steps 1 and 2: encoders, following errors, runs (R29, R47, R48), and the cross-check (R143) -/

/-- What the encoder says an axis's position is, relative while the axis is unreferenced (R144). -/
def AxisState.reads (x : AxisState) : Mas := x.encoder + x.zero

/-- Step 1 for one axis (R29). -/
def AxisState.readEncoder (on : Bool) (raw : Int) (x : AxisState) : AxisState :=
  let x := if on then { x with encoder := raw } else x
  { x with actual := if x.referenced && on then some x.reads else none }

/-- Step 2 for one axis (R47). -/
def AxisState.formError (driveOn : Bool) (x : AxisState) : AxisState :=
  { x with error := if driveOn then some (x.demand - x.reads) else none }

/-- The trip threshold of the present state (R28, R48). -/
def Engine.threshold (e : Engine) : Mas :=
  match e.motion with
  | .unparking | .ready | .tracking | .stowed => e.cfg.tripTrk
  | _ => e.cfg.tripSlw

/-- The over-threshold run of one axis after a sample (R48). -/
def AxisState.judge (thr : Mas) (now : Ms) (x : AxisState) : AxisState :=
  { x with overSince := match x.error with
      | some e => if within thr e then none else some (x.overSince.getD now)
      | none => none }

/-- Whether an axis's following error is above the tracking tolerance (R47). -/
def AxisState.isDisturbed (tol : Mas) (x : AxisState) : Bool :=
  match x.error with
  | some e => !(within tol e)
  | none => false

/-- One axis after steps 1 and 2 (R29, R47, R48). -/
def Part.sampled (p : Part) (x : Axis) (raw : Int) : AxisState :=
  (((p.engine.axis x).readEncoder p.engine.encodersOn raw).formError (p.driveOn x)).judge p.engine.threshold p.now

/-- The engine after steps 1 and 2, with the flag of R47. -/
def Part.sampledEngine (p : Part) (rawAz rawEl : Int) : Engine :=
  { p.engine with
    az := p.sampled .az rawAz, el := p.sampled .el rawEl,
    disturbed := (p.sampled .az rawAz).isDisturbed p.engine.cfg.trkTol
      || (p.sampled .el rawEl).isDisturbed p.engine.cfg.trkTol }

/-- Replace the engine. -/
def Part.withEngine (p : Part) (e : Engine) : Part := { p with engine := e }

/-- The disturbed time of an interval in TRACKING (R47). -/
def countDisturbed (p : Part) : Part :=
  if p.engine.disturbed && p.engine.motion == .tracking then
    changeRecord p.attached (fun r => { r with disturbedMs := r.disturbedMs + 10 }) p
  else p

/-- Steps 1 and 2 of R29. -/
def readAxes (rawAz rawEl : Int) (p : Part) : Part := countDisturbed (p.withEngine (p.sampledEngine rawAz rawEl))

/-- How far from zero WRAPSIDE's cam may change (R143). -/
def camReach : Mas := 7200000

/-- Whether WRAPSIDE and an azimuth position disagree (R143). -/
def wrapDisagrees (active : Bool) (a : Mas) : Bool := if active then decide (a < -camReach) else decide (camReach < a)

/-- The cross-check of an interval (R143). -/
def wrapCheck (p : Part) : Part :=
  match p.engine.az.actual with
  | none => p
  | some a =>
    if wrapDisagrees (p.active .wrapSide) a then
      if p.engine.mismatch then p
      else report (p.reportHere .inputs .wrapMismatch none) { p with engine := { p.engine with mismatch := true } }
    else { p with engine := { p.engine with mismatch := false } }

/-! ### Step 3: the new demand -/

/-- R30's clamp on both axes. -/
def Engine.clampBoth (e : Engine) : Engine :=
  { e with az := e.az.clampDemand e.cfg.azLo e.cfg.azHi, el := e.el.clampDemand e.cfg.elLo e.cfg.elHi }

/-- The place LIMQ reports after an evaluation (R77). -/
def Engine.sees (e : Engine) (a : Aim) : Engine := { e with seen := a.place.map fun pl => (pl.alt, pl.az) }

/-- What an interval's evaluation leaves: the last demanded sky azimuth and the place LIMQ reports (R14, R77). -/
def noteEvaluation (a : Aim) (p : Part) : Part :=
  let p := noteAzimuth a p
  p.withEngine (p.engine.sees a)

/-- The azimuth-axis position of a new evaluation by continuity with the previous one (R56); an AXIS target's is given. -/
def placedAz (c : Coords) (prev : Mas) (a : Aim) : Mas :=
  match c with
  | .axis .. => a.axes.az
  | _ => nearTurn prev a.axes.az

/-- Entering TRACKING (R34, R66): a chase's keyhole time is added first; the Guide Unit is told (R125), and then the runner,
whose close at once, at a dome wait of 0 (R110), so comes after guiding was allowed. That order of the two is log 59's. -/
def enterTracking (p : Part) : Part :=
  let p := leavePassage p
  let p := p.withEngine { p.engine with
    motion := .tracking, arrivedAt := none, target := p.engine.target.map fun t => { t with reached := true } }
  runnerTracking (noticeGuide p)

/-- Arrival (R33), and TRACKING at once when the settle time is 0 (R34). -/
def arrive (p : Part) : Part :=
  let p := changeRecord p.attached (fun r => { r with arrived := some p.stamp }) p
  let p := p.withEngine { p.engine with
    motion := .settling, arrivedAt := some p.now,
    target := p.engine.target.map fun t => { t with arrived := true } }
  if p.engine.cfg.settle = 0 then enterTracking p else p

/-- Whether an axis's actual position lies within the arrival tolerance of a position (R33). -/
def AxisState.isAt (tol : Mas) (q : Mas) (x : AxisState) : Bool :=
  match x.actual with
  | some a => within tol (q - a)
  | none => false

/-- Whether both axes are captured and at a pair of positions (R33). -/
def Engine.arrivedAtPair (e : Engine) (q : AxisPair) : Bool :=
  e.az.captured && e.el.captured && e.az.isAt e.cfg.arrTol q.az && e.el.isAt e.cfg.arrTol q.el

/-- Both axes one interval along the slew profile toward `o`, the destinations found before, with capture on `q`, clamped
(R30, R32, R33). -/
def Engine.slewBoth (e : Engine) (o q : AxisPair) : Engine :=
  ({ e with az := e.az.slewTo e.cfg.accel e.cfg.azVmax e.cfg.arrTol o.az q.az,
            el := e.el.slewTo e.cfg.accel e.cfg.elVmax e.cfg.arrTol o.el q.el } : Engine).clampBoth

/-- Both demands set directly, clamped (R29, R30). -/
def Engine.followBoth (e : Engine) (q : AxisPair) : Engine :=
  ({ e with az := e.az.follow q.az, el := e.el.follow q.el } : Engine).clampBoth

/-- The destination re-evaluated at an interval (R32, R56). -/
def reDestine (t : Target) (p : Part) : Part × Aim × AxisPair :=
  let a := aimDemand p t.given.coords
  let q : AxisPair := { az := placedAz t.given.coords t.destAz a, el := a.axes.el }
  let p := noteEvaluation a p
  (p.withEngine { p.engine with target := some { t with destAz := q.az, destEl := q.el } }, a, q)

/-- The destination that stands in the target record. -/
def Target.dest (t : Target) : AxisPair := { az := t.destAz, el := t.destEl }

/-- SLEWING (R32, R33): the profile has run since the evaluation before toward the destination found then, and the
destination is evaluated anew. The chase is slewing too, and its first interval ends the swing (R65). -/
def stepSlewing (t : Target) (p : Part) : Part :=
  let (p, a, q) := reDestine t p
  let p := p.withEngine (p.engine.slewBoth t.dest q)
  match endingAt p t a.place q false with
  | some e => endTarget e.1 e.2 p
  | none => if p.engine.arrivedAtPair q then arrive p else p

/-- Both axes set to the position an evaluation asks for, and the target tested at it (R34, R75). -/
def followTarget (t : Target) (a : Aim) (q : AxisPair) (tracking : Bool) (p : Part) : Part :=
  let p := p.withEngine (p.engine.followBoth q)
  match endingAt p t a.place q tracking with
  | some e => endTarget e.1 e.2 p
  | none => p

/-- SETTLING (R34). -/
def stepSettling (t : Target) (p : Part) : Part :=
  let (p, a, q) := reDestine t p
  followTarget t a q false p

/-- The exit instant of a passage (R64). -/
def exitInstant (tin : SiteTime) (hour : Mas) : SiteTime :=
  let h := signedTurn hour
  if h < 0 then tin + roundDiv (2 * (-h) * 1000000) 15041069 else tin

/-- The exit axis position, none when neither way lies within the soft limits (R64). -/
def exitAzimuth (p : Part) (c : Coords) (tin exitAt : SiteTime) : Option Mas :=
  let z := p.engine.az.demand
  let r := (aimAt p c exitAt).axes.az
  let d := directionAt p c tin
  if azInside p.engine.cfg (continuing z r d) then some (continuing z r d)
  else if azInside p.engine.cfg (otherWay z r d) then some (otherWay z r d)
  else none

/-- Keyhole entry (R63, R64). With neither exit position inside the soft limits the target ends LIMIT from the demands of the
interval before, this interval's evaluation giving none: DESIGN CHOICE (log 63). -/
def keyholeEntry (t : Target) (pl : Place) (p : Part) : Part :=
  let tin := p.siteNow
  let exitAt := exitInstant tin pl.hour
  match exitAzimuth p t.given.coords tin exitAt with
  | none => endTarget .limit (some (p.reportHere .azAxis .softLimit t.entry)) p
  | some x =>
    p.withEngine { p.engine with
      motion := .keyhole,
      az := { p.engine.az with captured := false, profile := none },
      el := { p.engine.el.hold with captured := false },
      passage := some { entered := p.now, exitAt := exitAt, exitAz := x },
      target := some { t with side := sideOf x, destAz := x, destEl := p.engine.el.demand } }

/-- TRACKING (R34): the guide ramp's step comes before the evaluation (R130); the endings read the demand before R30's
clamp, and the interval that would enter KEYHOLE is still one in TRACKING, so an ending it meets comes first (R62, R73,
R74; DEDUCED, log 23). The destination of the target record stays the last one of SETTLING: DESIGN CHOICE (log 50). -/
def stepTracking (t : Target) (p : Part) : Part :=
  let p := guideRamp p
  let a := aimDemand p t.given.coords
  let p := noteEvaluation a p
  let q : AxisPair := { az := placedAz t.given.coords p.engine.az.demand a, el := a.axes.el }
  match a.place, inCone p t.given.coords a, endingAt p t a.place q true with
  | some pl, true, none => keyholeEntry t pl p
  | _, _, _ => followTarget t a q true p

/-- The swing of a passage: the azimuth moves to the exit position, the elevation is held (R65). -/
def Engine.swing (e : Engine) (exitAz : Mas) : Engine :=
  ({ e with az := e.az.slewTo e.cfg.accel e.cfg.azVmax e.cfg.arrTol exitAz exitAz, el := e.el.hold } : Engine).clampBoth

/-- The new demand of a passage is tested for zones (R72). -/
def zoneCheck (t : Target) (p : Part) : Part :=
  if inZones p.limits p.demands then endTarget .zone (some (p.reportHere .limits .zone t.entry)) p else p

/-- One interval of the swing (R65, R72). -/
def stepSwing (t : Target) (k : Passage) (p : Part) : Part := zoneCheck t (p.withEngine (p.engine.swing k.exitAz))

/-- The engine at the start of a chase (R65). An azimuth not yet captured keeps the unrounded profile of its swing, where R65
has the chase start from the present demand: DESIGN CHOICE (log 74). -/
def Engine.leaveKeyhole (e : Engine) : Engine :=
  { e with motion := .slewing, offArc := 0, offEl := 0,
           az := { e.az with captured := false }, el := { e.el with captured := false } }

/-- Keyhole exit: the offsets are reset and the chase begins at this interval, by continuity with the exit axis position
(R56, R65). -/
def keyholeExit (t : Target) (k : Passage) (p : Part) : Part :=
  stepSlewing { t with destAz := k.exitAz, noRun := false } (runnerChase (guideReset (p.withEngine p.engine.leaveKeyhole)))

/-- KEYHOLE (R65): before the exit instant the target is not tested. An evaluation that leaves the engine in KEYHOLE gives no
demand, and so does not set the last demanded sky azimuth (R14): DESIGN CHOICE (log 51). -/
def stepKeyhole (t : Target) (p : Part) : Part :=
  match p.engine.passage with
  | none => p
  | some k =>
    if k.exitAt ≤ p.siteNow then
      let a := aimDemand p t.given.coords
      let p := p.withEngine (p.engine.sees a)
      if inCone p t.given.coords a then stepSwing t k p else keyholeExit t k p
    else stepSwing t k p

/-- Both axes one interval of their profiles towards rest (R37, R38), clamped. -/
def Engine.easeBoth (e : Engine) : Engine :=
  ({ e with az := e.az.drive e.cfg.accel 0, el := e.el.drive e.cfg.accel 0 } : Engine).clampBoth

/-- Both axes decelerating to rest (R37). -/
def stepStopping (p : Part) : Part := restCheck (p.withEngine p.engine.easeBoth)

/-- The park position: the configured elevation is clamped to the elevation soft limits (R39). -/
def AxisCfg.park (c : AxisCfg) : AxisPair := { az := c.parkAz, el := clampTo c.elLo c.elHi c.parkEl }

/-- PARKING (R39): at arrival the drives go off, so DISTURBED is clear (R47), and PARKED is a boundary (R24). A PARK entry's
record gets no arrived time there (R104, R165): DESIGN CHOICE (log 64). -/
def stepParking (p : Part) : Part :=
  let q := p.engine.cfg.park
  let p := p.withEngine (p.engine.slewBoth q q)
  if p.engine.arrivedAtPair q then
    runnerParked (boundary (p.withEngine { p.engine.mapAxes AxisState.disableHere with motion := .parked, disturbed := false }))
  else p

/-- Entering STOWED (R140, R151). -/
def enterStowed (p : Part) : Part :=
  p.withEngine { p.engine.mapAxes AxisState.hold with motion := .stowed, halting := false }

/-- A halted stow that has come to rest is STOWED (R140). -/
def stowRestCheck (p : Part) : Part :=
  if p.engine.motion == .stowing && p.engine.halting && p.engine.atRest then enterStowed p else p

/-- One interval of a stow: the azimuth comes to rest, the elevation moves to STOWEL (R151). The first after STOWING is entered
runs a whole 10 ms of both profiles: DESIGN CHOICE (log 49). -/
def Engine.stowBoth (e : Engine) : Engine :=
  ({ e with az := e.az.drive e.cfg.accel 0,
            el := e.el.slewTo e.cfg.accel e.cfg.elVmax e.cfg.arrTol e.cfg.stowEl e.cfg.stowEl } : Engine).clampBoth

/-- Whether a stow has arrived (R151). -/
def Engine.stowedHere (e : Engine) : Bool :=
  e.el.captured && decide (e.az.velocity = 0) && e.az.isAt e.cfg.arrTol e.az.demand && e.el.isAt e.cfg.arrTol e.cfg.stowEl

/-- The arrival of a stow. -/
def stowArrivalCheck (p : Part) : Part := if p.engine.stowedHere then enterStowed p else p

/-- STOWING (R151). -/
def stepStowing (p : Part) : Part :=
  if p.engine.halting then stowRestCheck (p.withEngine p.engine.easeBoth)
  else stowArrivalCheck (p.withEngine p.engine.stowBoth)

/-! ### The reference run and the backout (R144 to R147) -/

/-- One axis over one interval of a reference run (R145), the first after REFR a whole 10 ms of profile: DESIGN CHOICE (log 49). -/
def AxisState.seek (accel creep : Int) (halting : Bool) (x : AxisState) : AxisState :=
  match x.search with
  | some s => if halting || s.found then x.drive accel 0 else x.drive accel (s.dir.sign * creep * fx)
  | none => x.drive accel 0

/-- Whether an axis has found its index. -/
def AxisState.foundIndex (x : AxisState) : Bool := x.search.any fun s => s.found

/-- A reference run that has ended: READY when both axes are referenced and at rest, UNREFERENCED when it was abandoned
(R36, R145). -/
def referenceCheck (p : Part) : Part :=
  let e := p.engine
  if !(e.motion == .referencing && e.atRest) then p
  else if e.halting then
    p.withEngine { (e.mapAxes AxisState.disableHere).mapAxes AxisState.unreference with
      motion := .unreferenced, halting := false, mismatch := false, disturbed := false }
  else if e.az.foundIndex && e.el.foundIndex then
    readyArrival (p.withEngine (e.mapAxes fun x => { x with search := none }))
  else p

/-- REFERENCING (R145): the soft limits do not apply. -/
def stepReferencing (p : Part) : Part :=
  let e := p.engine
  referenceCheck (p.withEngine
    { e with az := e.az.seek e.cfg.accel e.cfg.creep e.halting, el := e.el.seek e.cfg.accel e.cfg.creep e.halting })

/-- The travel at which a backout fails (R147). -/
def backoutReach : Mas := 18000000

/-- Whether a limit of the side a backout leaves is recognised ACTIVE (R147). -/
def Part.backoutHeld (p : Part) (b : Backout) : Bool :=
  p.active (finLimit b.axis b.dir.flip) || p.active (preLimit b.axis b.dir.flip)

/-- A backout that has come to rest: the drive goes off and the engine is TRIPPED (R147). -/
def backoutCheck (p : Part) : Part :=
  match p.engine.backout with
  | some b =>
    if p.engine.motion == .backout && p.engine.halting && decide ((p.engine.axis b.axis).velocity = 0) then
      boundary (p.withEngine { p.engine.setAxis b.axis (p.engine.axis b.axis).disableHere with
        motion := .tripped, backout := none, halting := false, disturbed := false })
    else p
  | none => p

/-- BACKOUT (R147), the first interval after BACK a whole 10 ms of profile: DESIGN CHOICE (log 49). -/
def stepBackout (p : Part) : Part :=
  match p.engine.backout with
  | none => p
  | some b =>
    let e := p.engine
    let x := (e.axis b.axis).drive e.cfg.accel (if e.halting then 0 else b.dir.sign * e.cfg.creep * fx)
    let p := p.withEngine (e.setAxis b.axis x)
    if decide (backoutReach ≤ absInt (x.demand - b.start)) && p.backoutHeld b then
      report { source := Axis.source b.axis, reason := .backoutFailed, entry := none, az := none, el := none } p
    else backoutCheck p

/-- An axis whose drive is off in PARKED or TRIPPED: its demand is its actual position (R28), outside the soft limits too,
where R30's clamp comes only with the first interval of UNPARKING: DEDUCED (log 62). -/
def AxisState.restHere (x : AxisState) : AxisState := { x with demand := x.actual.getD x.demand, velocity := 0 }

/-- A state that holds its demands (R28, R30). -/
def stepHeld (p : Part) : Part := p.withEngine (p.engine.mapAxes AxisState.hold).clampBoth

/-- A state that follows a target; the engine has one in each of them (R27). -/
def withTarget (f : Target → Part → Part) (p : Part) : Part :=
  match p.engine.target with
  | some t => f t p
  | none => p

/-- Step 3 of R29, by motion state (R28). -/
def newDemand (p : Part) : Part :=
  match p.engine.motion with
  | .unreferenced | .waking | .dormant => p
  | .parked | .tripped => p.withEngine (p.engine.mapAxes AxisState.restHere)
  | .unparking | .ready | .stowed => stepHeld p
  | .slewing => withTarget stepSlewing p
  | .settling => withTarget stepSettling p
  | .tracking => withTarget stepTracking p
  | .keyhole => withTarget stepKeyhole p
  | .stopping => stepStopping p
  | .parking => stepParking p
  | .stowing => stepStowing p
  | .referencing => stepReferencing p
  | .backout => stepBackout p

/-- One demand interval (R29). -/
def interval10 (rawAz rawEl : Int) (p : Part) : Part :=
  let p := p.withEngine { p.engine with seen := none, demandAt := some p.now }
  newDemand (wrapCheck (readAxes rawAz rawEl p))

/-- Whether an interval falls at the present instant and has not been taken (log 10). -/
def Part.intervalDue (p : Part) : Bool := decide (p.now % 10 = 0) && p.engine.demandAt != some p.now

/-- DEMAND_INTERVAL. -/
def demandStep (rawAz rawEl : Int) (p : Part) : Part := if p.intervalDue then interval10 rawAz rawEl p else p

/-! ### The engine's timed events (R34, R40, R48) -/

/-- Whether the settle time has run out (R34). -/
def Part.settleDue (p : Part) : Bool :=
  p.engine.motion == .settling && match p.engine.arrivedAt with
    | some b => p.ran b p.engine.cfg.settle.toNat
    | none => false

/-- SETTLE_TIMEOUT (R34). -/
def settleStep (p : Part) : Part := if p.settleDue then enterTracking p else p

/-- The trip persistence of R48. -/
def tripPersistence : Ms := 500

/-- Whether an axis's run has lasted the trip persistence, its latest sample being of this instant (R48). -/
def Part.runOver (p : Part) (x : Axis) : Bool :=
  p.engine.demandAt == some p.now && match (p.engine.axis x).overSince with
    | some b => p.ran b tripPersistence
    | none => false

/-- FOLLOWING_TRIP (R48): one report per axis whose run is over, and both runs are discarded. Of two reports at one interval
the azimuth's is made first (DESIGN CHOICE, log 57), and both are formed before either acts, so that both carry the entry id:
DESIGN CHOICE (log 72). -/
def followingStep (p : Part) : Part :=
  let r (x : Axis) := p.reportHere (Axis.source x) .following p.list.current
  let drop (q : Part) := q.withEngine (q.engine.mapAxes fun x => { x with overSince := none })
  match p.runOver .az, p.runOver .el with
  | false, false => p
  | true, false => report (r .az) (drop p)
  | false, true => report (r .el) (drop p)
  | true, true => report (r .el) (report (r .az) (drop p))

/-- The brake release wait of an unpark (R40). -/
def brakeWait : Ms := 1000

/-- Whether the wait has run out. -/
def Part.unparkDue (p : Part) : Bool :=
  p.engine.motion == .unparking && match p.engine.unparkAt with
    | some b => p.ran b brakeWait
    | none => false

/-- UNPARK_WAIT_EXPIRY (R40): READY, and the slew start that waited for it. -/
def unparkStep (p : Part) : Part := if p.unparkDue then readyArrival p else p

end Sys2Proof.Machine
end

