-- ==== Sys2Proof/Machine/Inputs.lean ====
section
/-! DEFINITION. The Input Filters and the Wind Logic (09): sampling and recognition, what each recognition does at its
owner, the index mark, and the wind hold's start, timer and end. -/

namespace Sys2Proof.Machine

/-! ### Wind Logic (R149 to R152) -/

/-- Whether the release timer has run for the release time (R152). -/
def Part.windDue (p : Part) : Bool :=
  p.wind.hold && match p.wind.timer with
    | some b => p.ran b p.wind.release
    | none => false

/-- The end of a wind hold: the engine is told first, then the runner (R152). -/
def windEnd (p : Part) : Part :=
  runnerRelease (engineRelease { p with wind := { p.wind with hold := false, timer := none } })

/-- WIND_HOLD_END (R152). -/
def windCheck (p : Part) : Part := if p.windDue then windEnd p else p

/-- The release timer set running from now, which ends the hold at once when the release time is 0 (R152). -/
def startTimer (p : Part) : Part := windCheck { p with wind := { p.wind with timer := some p.now } }

/-- The start of a wind hold (R150). -/
def windStart (p : Part) : Part :=
  let timer := if p.active .wind then none else some p.now
  let p := { p with wind := { p.wind with hold := true, timer := timer },
                    alerts := { p.alerts with wind := true } }
  windCheck (runnerWind (engineHold p))

/-- WIND recognised ACTIVE: a hold starts, or the timer of the one in force stops (R150, R152). -/
def windActive (p : Part) : Part :=
  if p.wind.hold then { p with wind := { p.wind with timer := none } } else windStart p

/-- WIND recognised INACTIVE, or disabled, during a hold: the timer starts again (R152). -/
def windQuiet (p : Part) : Part := if p.wind.hold then startTimer p else p

/-- A STOW taken (R150). -/
def stowTaken (p : Part) : Part :=
  if !p.wind.hold then windStart p
  else if p.active .wind then p
  else startTimer p

/-! ### What a recognition does at the Motion Engine (R140, R141, R145, R147) -/

/-- The axis and side of a pre-limit. -/
def preLimitOf : InputName → Option (Axis × Side)
  | .azPrePos => some (.az, .pos)
  | .azPreNeg => some (.az, .neg)
  | .elPreHigh => some (.el, .pos)
  | .elPreLow => some (.el, .neg)
  | _ => none

/-- The axis and side of a final limit. -/
def finLimitOf : InputName → Option (Axis × Side)
  | .azFinPos => some (.az, .pos)
  | .azFinNeg => some (.az, .neg)
  | .elFinHigh => some (.el, .pos)
  | .elFinLow => some (.el, .neg)
  | _ => none

/-- What a pre-limit does to a reference search (R145): the first one in the search direction reverses it, the next is
NO_INDEX. An axis that has found its index, or whose run is being abandoned, is not acted on. -/
def searchLimit (x : Axis) (side : Side) (p : Part) : Part :=
  match (p.engine.axis x).search with
  | none => p
  | some s =>
    if s.found || p.engine.halting || s.dir != side then p
    else if s.reversed then
      report { source := Axis.source x, reason := .noIndex, entry := none, az := none, el := none } p
    else
      p.withEngine (p.engine.setAxis x { p.engine.axis x with
        search := some { s with dir := s.dir.flip, reversed := true } })

/-- A pre-limit recognised ACTIVE (R140). -/
def preLimitActive (x : Axis) (side : Side) (p : Part) : Part :=
  let told := report (p.reportHere (Axis.source x) .preLimit p.list.current) p
  match p.engine.motion with
  | .slewing | .settling | .tracking | .keyhole => endTarget .preLimit none told
  | .parking =>
    let wasPark := p.parkCurrent
    runnerEnding .preLimit wasPark (enterStopping told)
  | .stowing => stowRestCheck (told.withEngine { told.engine.freshProfiles with halting := true })
  | .stopping | .ready | .unparking | .stowed => told
  | .referencing => searchLimit x side told
  | .backout | .unreferenced | .waking | .parked | .tripped | .dormant => p

/-- A final limit recognised ACTIVE (R141). -/
def finLimitActive (x : Axis) (p : Part) : Part :=
  report (p.reportHere (Axis.source x) .finalLimit p.list.current) p

/-- A limit recognised INACTIVE: in BACKOUT, with both limits of the side inactive, the axis is brought to rest (R147). -/
def limitInactive (p : Part) : Part :=
  match p.engine.motion, p.engine.backout with
  | .backout, some b =>
    if p.backoutHeld b then p else backoutCheck (p.withEngine { p.engine with halting := true })
  | _, _ => p

/-- A recognition delivered to its owner (R136, the table of inputs). -/
def deliver (i : InputName) (active : Bool) (p : Part) : Part :=
  match i with
  | .estop => if active then report (p.reportHere .inputs .estop p.list.current) p else p
  | .wrapSide => p
  | .wind => if active then windActive p else windQuiet p
  | .dome => if active then domePresent p else domeAbsent p
  | i =>
    match preLimitOf i, finLimitOf i with
    | some (x, side), _ => if active then preLimitActive x side p else limitInactive p
    | none, some (x, _) => if active then finLimitActive x p else limitInactive p
    | none, none => p

/-! ### Filters (R135 to R137) -/

/-- The verification time of a filter code (09, the second table). -/
def verifyTime : Nat → Ms
  | 0 => 1
  | 1 => 2
  | 2 => 8
  | 3 => 32
  | 4 => 128
  | 5 => 512
  | 6 => 2048
  | _ => 8192

/-- Whether a sample of an input falls at the present instant and has not been taken (R136, log 9). -/
def Part.sampleDue (p : Part) (f : Filter) : Bool :=
  f.enabled && decide (p.now % verifyTime f.cfg.code = 0) && f.sampledAt != some p.now

/-- Whether a sample makes a recognition (R136). -/
def Filter.recognises (f : Filter) (sample : Bool) : Bool :=
  f.recognised != some sample && (f.cfg.code == 0 || f.last == some sample)

/-- INPUT_RECOGNITION: the wire stands at `level`; when a sample falls here it is taken, and a recognition is delivered. -/
def inputStep (i : InputName) (level : Level) (p : Part) : Part :=
  let f := { p.inputs.get i with wire := level }
  if p.sampleDue f then
    let sample := level == f.cfg.polarity
    let hit := f.recognises sample
    let g := { f with last := some sample, sampledAt := some p.now,
                      recognised := if hit then some sample else f.recognised }
    let p := { p with inputs := p.inputs.set i g }
    if hit then deliver i sample p else p
  else { p with inputs := p.inputs.set i f }

/-- A filter enabled at an instant, whose own sample is not taken any more: sampling begins at the next one (R137). -/
def Filter.enable (f : Filter) (now : Ms) : Filter :=
  { f with enabled := true, recognised := some false, last := none, sampledAt := some now }

/-- A filter disabled (R137). -/
def Filter.disable (f : Filter) : Filter := { f with enabled := false, recognised := none, last := none }

/-- Enabling WIND or DOME (R137), delivered as "enabled": WIND's owner does nothing, DOME's starts an absence. -/
def enableInput (i : InputName) (p : Part) : Part :=
  let f := p.inputs.get i
  let p := { p with inputs := p.inputs.set i (f.enable p.now) }
  if i = .dome then domeEnabled p else p

/-- Disabling WIND or DOME (R137), delivered as "disabled". -/
def disableInput (i : InputName) (p : Part) : Part :=
  let f := p.inputs.get i
  let p := { p with inputs := p.inputs.set i f.disable }
  if i = .wind then windQuiet p else if i = .dome then domePresent p else p

/-- A change of polarity or filter code restarts the filter: sampling goes on from the next instant of the new V (R137). -/
def Filter.reconfigure (f : Filter) (cfg : FilterCfg) (now : Ms) : Filter :=
  if cfg = f.cfg then f else { f with cfg := cfg, last := none, sampledAt := some now }

/-- Every enabled input recognised ACTIVE is delivered once more (R136, R175 step 5). -/
def redeliver (p : Part) : Part :=
  InputName.all.foldl (fun q i => if q.active i then deliver i true q else q) p

/-! ### The index mark (R145) -/

/-- An axis whose index mark has passed at channel count `raw`: the position there becomes the index position. -/
def AxisState.index (position : Mas) (raw : Int) (s : Search) (x : AxisState) : AxisState :=
  let shift := position - raw - x.zero
  { x with zero := x.zero + shift, demand := x.demand + shift, profile := x.profile.map fun q => q + shift * fx,
           referenced := true, search := some { s with found := true } }

/-- The configured index position of an axis. -/
def AxisCfg.index (c : AxisCfg) : Axis → Mas
  | .az => c.azIndex
  | .el => c.elIndex

/-- INDEX_MARK: only an axis still searching takes it, and none while the run is being brought to rest: DEDUCED (log 54). -/
def indexStep (x : Axis) (raw : Int) (p : Part) : Part :=
  let e := p.engine
  match (e.axis x).search with
  | none => p
  | some s =>
    if e.motion == .referencing && !s.found && !e.halting then
      referenceCheck (p.withEngine (e.setAxis x ((e.axis x).index (e.cfg.index x) raw s)))
    else p

end Sys2Proof.Machine
end

