-- ==== Sys2Proof/Machine/Planner.lean ====
section
/-! DEFINITION. The Planner (07, R120 to R122): the planning of one entry and the writing of its plan record. -/

namespace Sys2Proof.Machine

/-- What planning an entry gives: its record, and the pass carried to the next entry. -/
structure Planned where
  record : PlanRec
  pass : Pass
  deriving DecidableEq, Repr

/-- A CURRENT record with every optional field absent: an entry behind a PARK (R121). -/
def PlanRec.behind : PlanRec :=
  { current := true, start := none, finish := none, outcome := none, side := none, keyhole := false, altitude := none }

/-- A record with a predicted start, end and outcome. -/
def PlanRec.basic (start finish : SiteTime) (outcome : Predicted) : PlanRec :=
  { PlanRec.behind with start := some start, finish := some finish, outcome := some outcome }

/-- The pair of axis positions a pass carries. -/
def Pass.at_p (ps : Pass) : AxisPair := { az := ps.az, el := ps.el }

/-- How a keyhole passage lengthens an entry: the settle time and the time across the meridian, from the signed hour
angle at the first in-cone sample (R121). -/
def keyholeExtra (p : Part) (c : Coords) (samples : List Sample) : Int :=
  match samples.find? fun s => inCone p c s.aim with
  | some s => match s.aim.place with
    | some pl => p.engine.cfg.settle + roundDiv (2 * absInt (signedTurn pl.hour) * 1000000) 15041069
    | none => 0
  | none => 0

/-- Whether a sample after the first lies in the keyhole cone (R121). -/
def crossesKeyhole (p : Part) (c : Coords) (samples : List Sample) : Bool :=
  samples.tail.any fun s => inCone p c s.aim

/-- The predicted end: lengthened by a keyhole, and replaced by an earlier give-up (R121). -/
def predictedEnd (p : Part) (e : Entry) (c : Coords) (samples : List Sample) (plain : SiteTime) : SiteTime :=
  let finish := if crossesKeyhole p c samples then plain + keyholeExtra p c samples else plain
  match e.opts.giveUp with
  | some g => min g finish
  | none => finish

/-- The position of the last sample on the path from a first azimuth. A last sample in the cone has no placed azimuth (R58),
and takes that of the last placed one with its own elevation: DESIGN CHOICE (log 33). -/
def lastPosition (p : Part) (c : Coords) (first : Mas) (samples : List Sample) (dflt : AxisPair) : AxisPair :=
  match samples.getLast? with
  | some s => match c with
    | .axis az el => { az := az, el := el }
    | c => { az := (pathFrom p c first samples).getLast?.getD first, el := s.aim.axes.el }
  | none => dflt

/-- The first sample's apparent altitude, absent for AXIS. -/
def firstAltitude (samples : List Sample) : Option Mas :=
  samples.head?.bind fun s => s.aim.place.map fun pl => pl.alt

/-- Planning a SKY, ALTAZ or AXIS entry that is not current (R121). -/
def planTarget (p : Part) (ps : Pass) (e : Entry) (c : Coords) : Planned :=
  let estimate := estimateFrom p c e.body.dwell (e.opts.wrap.getD .near) ps.at_p ps.origin
  let arrive := ps.origin + (estimate : Int)
  let start := match e.opts.notBefore with
    | some nb => max arrive nb
    | none => arrive
  let k := checkEntry p e c ps.az start
  match k.outcome with
  | .run =>
    let finish := predictedEnd p e c k.samples (start + (e.body.dwell : Int))
    let q := lastPosition p c k.az k.samples ps.at_p
    { record := { PlanRec.basic start finish .run with
        side := some (sideOf k.az), keyhole := crossesKeyhole p c k.samples, altitude := firstAltitude k.samples },
      pass := { ps with origin := finish, az := q.az, el := q.el } }
  | o => { record := PlanRec.basic ps.origin ps.origin o, pass := ps }

/-- Where a current entry's track begins for R122: its predicted start, its wrap side and the azimuth its first sample
lies nearest to. -/
structure CurrentStart where
  start : SiteTime
  side : Side
  near : Mas
  deriving DecidableEq, Repr

/-- The predicted start of a current entry (R122): after arrival, while slewing, and before the slew start, when side and
azimuth are those of R105's second wrap choice. With a target its samples start from the azimuth demand in TRACKING, and from
the target record's destination in the other states, the exit position in KEYHOLE: DESIGN CHOICE (log 68). -/
def currentStart (p : Part) (e : Entry) (c : Coords) : CurrentStart :=
  match p.onEntry, p.engine.target with
  | true, some t =>
    if t.arrived then
      let arrivedAt := ((p.runner.ctx.record.bind p.log.find).bind fun r => r.arrived).bind fun s =>
        match s with
        | .site x => some x
        | .base _ => none
      { start := arrivedAt.getD p.siteNow + p.engine.cfg.settle, side := t.side,
        near := if p.engine.motion = .tracking then p.engine.az.demand else t.destAz }
    else
      { start := p.siteNow + (slewEstimate p.engine.cfg p.demands { az := t.destAz, el := t.destEl } : Int),
        side := t.side, near := t.destAz }
  | _, _ =>
    let pref := e.opts.wrap.getD .near
    let start := p.siteNow + (estimateFrom p c e.body.dwell pref p.demands p.siteNow : Int)
    let az := (arrivalFrom p c e.body.dwell pref p.demands p.siteNow).az
    { start := start, side := sideOf az, near := az }

/-- Planning the current entry (R122). Its keyhole crossing and H_in are counted on the samples from the present reading to the
end before the lengthening and the give-up: DESIGN CHOICE (log 71). -/
def planCurrent (p : Part) (ps : Pass) (e : Entry) (c : Coords) : Planned :=
  let now := p.siteNow
  let s := currentStart p e c
  let plain := max s.start now + ((e.body.dwell - p.dwellSoFar : Nat) : Int)
  let finish := predictedEnd p e c (samplesOf p c now (plain - now).toNat) plain
  let samples := samplesOf p c now (finish - now).toNat
  let stands := samples.all (sampleStands p e c)
  let first := match samples.head? with
    | some x => placedAz c s.near x.aim
    | none => s.near
  let q := lastPosition p c first samples ps.at_p
  { record := { PlanRec.basic s.start finish (if stands then .run else .setsEarly) with
      side := some s.side,
      keyhole := crossesKeyhole p c (samplesOf p c now (plain - now).toNat),
      altitude := (aimAt p c s.start).place.map fun pl => pl.alt },
    pass := { ps with origin := finish, az := q.az, el := q.el } }

/-- The estimate to the park position (R121, R122). -/
def parkEstimate (p : Part) (src : AxisPair) : Ms := slewEstimate p.engine.cfg src p.engine.cfg.park

/-- Planning a PARK entry that is current (R122). -/
def planCurrentPark (p : Part) (ps : Pass) : Planned :=
  let started := ((p.runner.ctx.record.bind p.log.find).bind fun r => r.started).bind fun s =>
    match s with
    | .site x => some x
    | .base _ => none
  { record := PlanRec.basic (started.getD p.siteNow) (p.siteNow + (parkEstimate p p.demands : Int)) .run,
    pass := { ps with behindPark := true } }

/-- Planning one entry (R121, R122). -/
def planEntry (p : Part) (ps : Pass) (e : Entry) : Planned :=
  if ps.behindPark then { record := PlanRec.behind, pass := ps }
  else match e.coords, e.body, p.list.current == some e.id with
    | some c, _, true => planCurrent p ps e c
    | some c, _, false => planTarget p ps e c
    | none, .mark, _ => { record := PlanRec.basic ps.origin ps.origin .run, pass := ps }
    | none, _, true => planCurrentPark p ps
    | none, _, false =>
      { record := PlanRec.basic ps.origin (ps.origin + (parkEstimate p ps.at_p : Int)) .run,
        pass := { ps with behindPark := true } }

/-- Whether a rewritten record sets the alert cause PLAN (R122): it was RUN and is now another outcome. -/
def raisesPlan (old new : PlanRec) : Bool :=
  old.outcome == some .run && new.outcome.any fun o => o != .run

/-- PLAN_ENTRY_DONE (R120): the record is written and the next position begun, or the pass ends. -/
def planStep (p : Part) : Part :=
  match p.planner.pass with
  | none => p
  | some ps =>
    match p.list.entries[ps.cursor - 1]? with
    | none => { p with planner := { pass := none } }
    | some e =>
      let r := planEntry p ps e
      let next : Option Pass :=
        if ps.cursor < p.list.entries.length then some { r.pass with cursor := ps.cursor + 1, began := p.now }
        else none
      { p with
        list := { p.list with entries := p.list.entries.set (ps.cursor - 1) { e with plan := r.record } },
        planner := { pass := next },
        alerts := { p.alerts with plan := p.alerts.plan || raisesPlan e.plan r.record } }

end Sys2Proof.Machine
end

