-- ==== Sys2Proof/Machine/Power.lean ====
section
/-! DEFINITION. Power Control and the configuration store (11): power-on, the load, the encoder wait, dormancy, store
writes, and the controller restart. -/

namespace Sys2Proof.Machine

/-! ### Power and the load (R169, R170, R177) -/

/-- POWER_ON: power-on values everywhere; the store is what it was (R169, R177). -/
def powerOnStep (straps : BitVec 5) (p : Part) : Part := Part.powerOn straps p.power.mark p.power.store

/-- POWER_LOSS: nothing more is done or sent; a write in progress has already left the mark INVALID (R176, R177). -/
def powerLossStep (p : Part) : Part :=
  { p with power := { p.power with powered := false, writing := none },
           line := { p.line with a := { p.line.a with reply := none }, b := { p.line.b with reply := none } } }

/-- A filter that takes its stored configuration and its stored enable (R135, R137). -/
def Filter.load (f : Filter) (cfg : FilterCfg) (on : Bool) (now : Ms) : Filter :=
  let g := f.reconfigure cfg now
  if on = g.enabled then g else if on then g.enable now else g.disable

/-- The stored enable of an input: WIND and DOME have one, the others are always enabled (R135, R176). -/
def StoreImage.enables (im : StoreImage) : InputName → Bool
  | .wind => im.windOn
  | .dome => im.domeOn
  | _ => true

/-- The stored input configuration put in place. -/
def loadInputs (v : PerInput Filter) (im : StoreImage) (now : Ms) : PerInput Filter :=
  InputName.all.foldl (fun w i => w.set i ((w.get i).load (im.inputs.get i) (im.enables i) now)) v

/-- Every stored item written into its owner (R170, R176). -/
def loadStored (im : StoreImage) (p : Part) : Part :=
  { p with
    site := im.site,
    engine := { p.engine with cfg := im.cfg },
    limits := im.limits,
    inputs := loadInputs p.inputs im p.now,
    wind := { p.wind with release := im.release, autoResume := im.autoResume },
    runner := { p.runner with domeWait := im.domeWait },
    guide := { p.guide with enable := im.guideEnable, rate := im.guideRate, step := im.guideStep },
    model := { p.model with staged := im.terms, active := im.terms, generation := 1 },
    power := { p.power with waitCode := im.waitCode } }

/-- STORE_LOAD_END (R170). -/
def loadStep (p : Part) : Part :=
  if p.power.loaded then p
  else
    let p := { p with power := { p.power with loaded := true, loadResult := p.power.mark } }
    if p.power.mark then loadStored p.power.store p
    else report { source := .store, reason := .storeInvalid, entry := none, az := none, el := none } p

/-! ### The encoder wait and dormancy (R168, R171, R172, R174) -/

/-- The encoder wait of a code (R168). -/
def encoderWait : Nat → Ms
  | 0 => 500
  | 1 => 1000
  | 2 => 2000
  | _ => 4000

/-- Whether the encoder wait has run out. -/
def Part.waitDue (p : Part) : Bool :=
  match p.power.wait with
  | some (b, len) => p.ran b len
  | none => false

/-- ENCODER_WAIT_EXPIRY (R171). -/
def waitStep (p : Part) : Part :=
  if p.waitDue then
    let p := { p with power := { p.power with wait := none } }
    if p.engine.motion = .waking then p.withEngine { p.engine with motion := .unreferenced } else p
  else p

/-- A DORM taken (R172). -/
def goDormant (p : Part) : Part :=
  p.withEngine { p.engine.mapAxes AxisState.unreference with encodersOn := false, mismatch := false, motion := .dormant }

/-- A WAKE taken (R174). -/
def wakeUp (p : Part) : Part :=
  { p with power := { p.power with wait := some (p.now, encoderWait p.power.waitCode) },
           engine := { p.engine with encodersOn := true, motion := .waking } }

/-- Where an engine without a TRIP record goes from TRIPPED (R145, R160, R171). -/
def restState (p : Part) : Motion :=
  if p.referenced then .parked else if p.power.wait.isSome then .waking else .unreferenced

/-- The Fault Table tells the engine after a FACK (R160). -/
def trippedExit (p : Part) : Part :=
  if p.engine.motion == .tripped && !p.faults.hasTrip && !p.faults.overflow then
    let m := restState p
    let p := p.withEngine { p.engine with motion := m }
    if m = .parked then boundary p else p
  else p

/-! ### Store writes (R176) -/

/-- What a store write takes at its start (R176). -/
def snapshot (p : Part) : StoreImage :=
  let f := fun i => (p.inputs.get i).cfg
  { site := p.site, cfg := p.engine.cfg, limits := p.limits,
    inputs :=
      { azPrePos := f .azPrePos, azPreNeg := f .azPreNeg, azFinPos := f .azFinPos, azFinNeg := f .azFinNeg,
        elPreLow := f .elPreLow, elPreHigh := f .elPreHigh, elFinLow := f .elFinLow, elFinHigh := f .elFinHigh,
        estop := f .estop, wrapSide := f .wrapSide, wind := f .wind, dome := f .dome },
    windOn := p.inputs.wind.enabled, domeOn := p.inputs.dome.enabled,
    release := p.wind.release, autoResume := p.wind.autoResume, domeWait := p.runner.domeWait,
    guideEnable := p.guide.enable, guideRate := p.guide.rate, guideStep := p.guide.step,
    terms := p.model.active, waitCode := p.power.waitCode }

/-- The start of a store write: the mark is INVALID from here (R176). -/
def startWrite (p : Part) : Part :=
  { p with power := { p.power with mark := false, writing := some (p.now, snapshot p) } }

/-- STORE_WRITE_END (R176). -/
def writeEndStep (p : Part) : Part :=
  match p.power.writing with
  | some (_, im) => { p with power := { p.power with store := im, mark := true, writing := none } }
  | none => p

/-- Whether a store write is in progress. -/
def Part.busyStore (p : Part) : Bool := p.power.writing.isSome

/-! ### The restart (R54, R175) -/

/-- A stow, a reference run or a backout is brought to rest where it is (R54). -/
def restartHalt (p : Part) : Part :=
  match p.engine.motion with
  | .referencing => referenceCheck (p.withEngine { p.engine with halting := true })
  | .backout => backoutCheck (p.withEngine { p.engine with halting := true })
  | .stowing => stowRestCheck (p.withEngine { p.engine.freshProfiles with halting := true })
  | _ => p

/-- The engine's part of step 2 (R54): through STOPPING where STOP would send it there; a stow that the arrival in READY
then begins under a wind hold (R35) is brought to rest too. -/
def restartStop (p : Part) : Part := restartHalt (stopMotion p)

/-- Whether a motion is under way that R54 brings to rest and that is not being brought to rest already. -/
def Engine.underWay (e : Engine) : Bool :=
  match e.motion with
  | .slewing | .settling | .tracking | .keyhole | .parking => true
  | .stowing | .referencing | .backout => !e.halting
  | _ => false

/-- An event acts as usual, during the stop of a restart too (R175). What it sets moving then is brought to rest with all
the rest (R54): DEDUCED (log 14). -/
def stopBegun (f : Part → Part) (p : Part) : Part :=
  let q := f p
  if q.power.restarting && q.engine.underWay && !p.engine.underWay then restartStop q else q

/-- An RSET taken, after its reply (R175 step 2): a runner in OBSERVING enters ACQUIRING (R96), and the engine is
brought to rest. -/
def beginRestart (p : Part) : Part :=
  let ctx := { p.runner.ctx with accum := p.dwellSoFar, countFrom := none }
  let state := if p.runner.state = .observing then .acquiring else p.runner.state
  restartStop { p with power := { p.power with restarting := true },
                       runner := { p.runner with state := state, ctx := ctx } }

/-- Whether a restart's stop has come to rest. -/
def Part.restartDue (p : Part) : Bool :=
  p.power.restarting && p.engine.atRest &&
  match p.engine.motion with
  | .ready | .unparking | .stowed | .tripped | .parked | .unreferenced | .waking | .dormant => true
  | _ => false

/-- Step 3 (R166): the open record, if any, is closed RESTARTED, a list record with the runner's accumulated dwell. -/
def closeRestarted (p : Part) : Part :=
  match p.log.records.find? RunRec.isOpen with
  | none => p
  | some r =>
    let p := bankPassage p
    let p := if p.runner.ctx.record = some r.seq then
        changeRecord (some r.seq) (fun r => { r with dwell := p.dwellSoFar }) p
      else p
    closeRecord (some r.seq) .restarted p

/-- The motion state after RSET (R54, R145, R171). -/
def restartMotion (p : Part) : Motion :=
  match p.engine.motion with
  | .parked => .parked
  | .unreferenced => .unreferenced
  | .waking => .waking
  | .dormant => .dormant
  | .tripped | .backout => restState p
  | .referencing => .unreferenced
  | _ => .ready

/-- An axis at a restart's re-initialisation (R54). -/
def AxisState.restart (x : AxisState) : AxisState :=
  { x with velocity := 0, profile := none, captured := false, overSince := none, search := none }

/-- The engine's RSET values (R54). -/
def Engine.restart (e : Engine) (m : Motion) : Engine :=
  { e.mapAxes AxisState.restart with
    motion := m, offArc := 0, offEl := 0, target := none, request := none, passage := none, arrivedAt := none,
    unparkAt := none, mismatch := false, backout := none, halting := false }

/-- A line at RSET: as at power-on, but the RSET's own reply runs on (R180). -/
def LineState.restart (l : LineState) : LineState := { l with buffer := [], muted := false }

/-- The Line Interface's RSET values (R180). -/
def LineIf.restart (l : LineIf) : LineIf :=
  { l with a := l.a.restart, b := l.b.restart, locksA := [], locksB := [], last := none, msgErr := false,
           bcast := false }

/-- Step 4 (R175): each block takes its RSET values; what is not named here is kept. -/
def reinit (p : Part) : Part :=
  { p with
    power := { p.power with restarting := false },
    lastAz := none,
    model := if p.model.pending then p.model.activate else p.model,
    engine := p.engine.restart (restartMotion p),
    list := NightList.blank,
    runner := Runner.blank p.runner.domeWait,
    planner := { pass := none },
    guide := Guide.blank p.guide.enable p.guide.rate p.guide.step,
    wind := { p.wind with hold := false, timer := none },
    faults := FaultTable.blank,
    alerts := Alerts.blank,
    line := p.line.restart }

/-- RESTART_REINIT: steps 3 to 6 of R175. -/
def restartStep (p : Part) : Part := if p.restartDue then redeliver (reinit (closeRestarted p)) else p

/-! ### The trim fold (R6) -/

/-- Whether the blend of a trim has run its 10,000 ms. -/
def Part.trimDue (p : Part) : Bool :=
  match p.clock.trim with
  | some t => p.ran t.start 10000
  | none => false

/-- TRIM_FOLD (R6). -/
def trimStep (p : Part) : Part :=
  match p.clock.trim with
  | some t =>
    if p.ran t.start 10000 then
      { p with clock := { p.clock with anchorSite := p.clock.anchorSite + t.delta, trim := none } }
    else p
  | none => p

end Sys2Proof.Machine
end

