-- ==== Sys2Proof/Machine/Operands.lean ====
section
/-! DEFINITION. The words of the manual, the reading of a message's fields by its owner (R181), and the building of a
reply's fields (R184). -/

namespace Sys2Proof.Machine

/-! ### Answers -/

/-- What an owner gives back for a message (R183 step 4): the outcome, the reply's fields, and the part after it. -/
structure Answer where
  result : Result
  fields : List RField
  part : Part
  deriving DecidableEq, Repr

/-- Taken and done. -/
def okWith (fields : List RField) (p : Part) : Answer := { result := .ok, fields := fields, part := p }

/-- Refused, with no fields and nothing changed. -/
def refuse (r : Result) (p : Part) : Answer := { result := r, fields := [], part := p }

/-- A message that carries no fields (MALFORMED otherwise). -/
def noFields (fs : List Field) (p : Part) (a : Answer) : Answer :=
  if fs.isEmpty then a else refuse .malformed p

/-- The outcome of a chain of checks, the first that fails giving the reply (`none` when all pass). -/
def firstFailing : List (Bool × Result) → Option Result
  | [] => none
  | (bad, r) :: rest => if bad then some r else firstFailing rest

/-- Make the checks, then answer. -/
def checked (checks : List (Bool × Result)) (p : Part) (a : Answer) : Answer :=
  match firstFailing checks with
  | some r => refuse r p
  | none => a

/-! ### Reading fields -/

/-- A field as a number. -/
def Field.asNum : Field → Option Int
  | .num n => some n
  | .word _ => none
  | .bad => none

/-- A field as a word. -/
def Field.asWord : Field → Option String
  | .num _ => none
  | .word w => some w
  | .bad => none

/-- All fields as numbers. -/
def allNums (fs : List Field) : Option (List Int) := fs.mapM Field.asNum

/-- All fields as words. -/
def allWords (fs : List Field) : Option (List String) := fs.mapM Field.asWord

/-- Pairs of a name and a value, in order; an odd number of fields or a name that is no word has none. -/
def pairsOf : List Field → Option (List (String × Field))
  | [] => some []
  | .word w :: v :: rest => (pairsOf rest).map fun ps => (w, v) :: ps
  | _ :: _ => none

/-- Whether a name is given twice. -/
def namesRepeat (ps : List (String × Field)) : Bool := !(decide (ps.map Prod.fst).Nodup)

/-- The value given for a name. -/
def valueOf (ps : List (String × Field)) (name : String) : Option Field := ps.lookup name

/-- The number given for a name. -/
def numOf (ps : List (String × Field)) (name : String) : Option Int := (valueOf ps name).bind Field.asNum

/-- ON or OFF. -/
def onOff : String → Option Bool
  | "ON" => some true
  | "OFF" => some false
  | _ => none

/-! ### Words -/

/-- YES or NO. -/
def yesNo (b : Bool) : RField := .text (if b then "YES" else "NO")

/-- ON or OFF as a reply field. -/
def onOffWord (b : Bool) : RField := .text (if b then "ON" else "OFF")

/-- An optional number. -/
def optNum : Option Int → RField
  | some n => .num n
  | none => .absent

/-- An optional natural number. -/
def optNat : Option Nat → RField
  | some n => .num n
  | none => .absent

/-- A natural number. -/
def natF (n : Nat) : RField := .num n

/-- A tagged time, tag and value; both absent where it is absent (R161, R167). -/
def stampFields : Option Stamp → List RField
  | some (.site t) => [.text "SITE", .num t]
  | some (.base b) => [.text "BASE", natF b]
  | none => [.absent, .absent]

/-- POS or NEG. -/
def Side.word : Side → String
  | .pos => "POS"
  | .neg => "NEG"

/-- An optional side. -/
def optSide : Option Side → RField
  | some s => .text s.word
  | none => .absent

/-- NEAR, POS or NEG. -/
def Pref.word : Pref → String
  | .near => "NEAR"
  | .pos => "POS"
  | .neg => "NEG"

/-- A wrap word. -/
def prefOf : String → Option Pref
  | "NEAR" => some .near
  | "POS" => some .pos
  | "NEG" => some .neg
  | _ => none

/-- The motion states. -/
def Motion.word : Motion → String
  | .unreferenced => "UNREFERENCED"
  | .waking => "WAKING"
  | .referencing => "REFERENCING"
  | .dormant => "DORMANT"
  | .parked => "PARKED"
  | .unparking => "UNPARKING"
  | .ready => "READY"
  | .slewing => "SLEWING"
  | .settling => "SETTLING"
  | .tracking => "TRACKING"
  | .keyhole => "KEYHOLE"
  | .stopping => "STOPPING"
  | .parking => "PARKING"
  | .stowing => "STOWING"
  | .stowed => "STOWED"
  | .tripped => "TRIPPED"
  | .backout => "BACKOUT"

/-- The runner's states. -/
def RunState.text : RunState → String
  | .idle => "IDLE"
  | .empty => "EMPTY"
  | .intercept => "INTERCEPT"
  | .waiting => "WAITING"
  | .acquiring => "ACQUIRING"
  | .observing => "OBSERVING"
  | .held _ => "HELD"

/-- The kinds. -/
def Kind.word : Kind → String
  | .sky => "SKY"
  | .altaz => "ALTAZ"
  | .axis => "AXIS"
  | .mark => "MARK"
  | .park => "PARK"

/-- The kind of a target. -/
def Coords.kind : Coords → Kind
  | .sky .. => .sky
  | .altaz .. => .altaz
  | .axis .. => .axis

/-- The origin of a target or record: LIST with the entry id, or GOTO (log 20). -/
def originFields : Origin → List RField
  | .list id => [.text "LIST", natF id]
  | .goto => [.text "GOTO", .absent]

/-- The outcomes of R166. -/
def Ending.word : Ending → String
  | .complete => "COMPLETE"
  | .skippedMissed => "SKIPPED_MISSED"
  | .skippedLow => "SKIPPED_LOW"
  | .skippedWrap => "SKIPPED_WRAP"
  | .skippedZone => "SKIPPED_ZONE"
  | .setsEarly => "SETS_EARLY"
  | .skippedHost => "SKIPPED_HOST"
  | .timedOut => "TIMED_OUT"
  | .set => "SET"
  | .limit => "LIMIT"
  | .zone => "ZONE"
  | .preLimit => "PRE_LIMIT"
  | .domeTimeout => "DOME_TIMEOUT"
  | .stopped => "STOPPED"
  | .interrupted => "INTERRUPTED"
  | .tripped => "TRIPPED"
  | .stowed => "STOWED"
  | .markReached => "MARK_REACHED"
  | .parked => "PARKED"
  | .ended => "ENDED"
  | .restarted => "RESTARTED"

/-- The predicted outcomes of R93. -/
def Predicted.word : Predicted → String
  | .run => "RUN"
  | .miss => "MISS"
  | .low => "LOW"
  | .setsEarly => "SETS_EARLY"
  | .zone => "ZONE"
  | .wrap => "WRAP"

/-- The severities. -/
def Severity.word : Severity → String
  | .trip => "TRIP"
  | .abandon => "ABANDON"
  | .notice => "NOTICE"

/-- The sources. -/
def Source.word : Source → String
  | .azAxis => "AZ_AXIS"
  | .elAxis => "EL_AXIS"
  | .inputs => "INPUTS"
  | .limits => "LIMITS"
  | .list => "LIST"
  | .guide => "GUIDE"
  | .store => "STORE"

/-- The reasons. -/
def Reason.word : Reason → String
  | .following => "FOLLOWING"
  | .finalLimit => "FINAL_LIMIT"
  | .estop => "ESTOP"
  | .wrapMismatch => "WRAP_MISMATCH"
  | .noIndex => "NO_INDEX"
  | .backoutFailed => "BACKOUT_FAILED"
  | .preLimit => "PRE_LIMIT"
  | .softLimit => "SOFT_LIMIT"
  | .zone => "ZONE"
  | .domeTimeout => "DOME_TIMEOUT"
  | .guideSaturated => "GUIDE_SATURATED"
  | .storeInvalid => "STORE_INVALID"
  | .clockStep => "CLOCK_STEP"

/-- The outcome words (12, Outcome words). -/
def Result.word : Result → String
  | .ok => "OK"
  | .pending => "PENDING"
  | .dropped => "DROPPED"
  | .nothing => "NOTHING"
  | .busy => "BUSY"
  | .state => "STATE"
  | .range => "RANGE"
  | .malformed => "MALFORMED"
  | .unknown => "UNKNOWN"
  | .locked => "LOCKED"
  | .full => "FULL"
  | .duplicate => "DUPLICATE"
  | .notFound => "NOTFOUND"
  | .inUse => "IN_USE"
  | .noClock => "NOCLOCK"
  | .unref => "UNREF"
  | .tripped => "TRIPPED"
  | .wind => "WIND"
  | .low => "LOW"
  | .zone => "ZONE"
  | .tooFar => "TOO_FAR"

/-- The inputs' names. -/
def InputName.word : InputName → String
  | .azPrePos => "AZ_PRE_POS"
  | .azPreNeg => "AZ_PRE_NEG"
  | .azFinPos => "AZ_FIN_POS"
  | .azFinNeg => "AZ_FIN_NEG"
  | .elPreLow => "EL_PRE_LOW"
  | .elPreHigh => "EL_PRE_HIGH"
  | .elFinLow => "EL_FIN_LOW"
  | .elFinHigh => "EL_FIN_HIGH"
  | .estop => "ESTOP"
  | .wrapSide => "WRAPSIDE"
  | .wind => "WIND"
  | .dome => "DOME"

/-- The input a word names. -/
def inputOf (w : String) : Option InputName := InputName.all.find? fun i => InputName.word i == w

/-- LINE A or B. -/
def Line.word : Line → String
  | .a => "A"
  | .b => "B"

/-- The line a word names. -/
def lineOf : String → Option Line
  | "A" => some .a
  | "B" => some .b
  | _ => none

/-- ADDRESSED or BROADCAST. -/
def Cast.word : Cast → String
  | .addressed => "ADDRESSED"
  | .broadcast => "BROADCAST"

/-- The message names. -/
def MsgName.word : MsgName → String
  | .time => "TIME" | .trim => "TRIM" | .clkq => "CLKQ" | .site => "SITE" | .mtrm => "MTRM" | .mact => "MACT"
  | .mqry => "MQRY" | .goto => "GOTO" | .stop => "STOP" | .offs => "OFFS" | .axcf => "AXCF" | .posq => "POSQ"
  | .mask => "MASK" | .zone => "ZONE" | .limq => "LIMQ" | .qadd => "QADD" | .qdel => "QDEL" | .qsub => "QSUB"
  | .qlst => "QLST" | .trap => "TRAP" | .qrun => "QRUN" | .qhld => "QHLD" | .qres => "QRES" | .qskp => "QSKP"
  | .plan => "PLAN" | .guid => "GUID" | .gcfg => "GCFG" | .incf => "INCF" | .inpq => "INPQ" | .back => "BACK"
  | .stow => "STOW" | .wcfg => "WCFG" | .frec => "FREC" | .fack => "FACK" | .alrt => "ALRT" | .acka => "ACKA"
  | .rlog => "RLOG" | .park => "PARK" | .unpk => "UNPK" | .dorm => "DORM" | .wake => "WAKE" | .refr => "REFR"
  | .rset => "RSET" | .stor => "STOR" | .stat => "STAT" | .last => "LAST" | .mute => "MUTE" | .unmt => "UNMT"
  | .lock => "LOCK" | .lrst => "LRST"

/-- The message index in its order (12, Message index). -/
def MsgName.all : List MsgName :=
  [.time, .trim, .clkq, .site, .mtrm, .mact, .mqry, .goto, .stop, .offs, .axcf, .posq, .mask, .zone, .limq]
  ++ [.qadd, .qdel, .qsub, .qlst, .trap, .qrun, .qhld, .qres, .qskp, .plan, .guid, .gcfg, .incf, .inpq, .back]
  ++ [.stow, .wcfg, .frec, .fack, .alrt, .acka, .rlog, .park, .unpk, .dorm, .wake, .refr, .rset, .stor, .stat]
  ++ [.last, .mute, .unmt, .lock, .lrst]

/-- The index's entry for four letters. -/
def msgOf (w : String) : Option MsgName := MsgName.all.find? fun m => MsgName.word m == w

/-- A frame's name (R183 step 1). -/
def nameOf (w : String) : Name :=
  match msgOf w with
  | some m => .known m
  | none => .unknown w

/-- The letters of a name. -/
def Name.word : Name → String
  | .known m => MsgName.word m
  | .unknown w => w

end Sys2Proof.Machine
end

