-- ==== Sys2Proof/Machine/Flags.lean ====
section
/-! DEFINITION. The summary word (R186), the alert causes and the ALERT line (R162). -/

namespace Sys2Proof.Machine

/-- Whether the Fault Table has a valid record or its overflow flag set: the cause FAULT (R162). -/
def FaultTable.faultCause (ft : FaultTable) : Bool := ft.recs.any Option.isSome || ft.overflow

/-- Whether at least one alert cause is set (R162). -/
def Part.anyCause (p : Part) : Bool :=
  p.faults.faultCause || p.alerts.mark || p.alerts.intercept || p.alerts.listEnd || p.alerts.plan || p.alerts.wind

/-- The ALERT output: asserted while a cause is set and the mask is clear (R162). -/
def Part.alertLine (p : Part) : Bool := p.anyCause && !p.alerts.masked

/-- SEQ_RUNNING (R97, R186). -/
def RunState.seqRunning : RunState → Bool
  | .empty => true
  | .waiting => true
  | .acquiring => true
  | .observing => true
  | _ => false

/-- SEQ_HELD (R97, R186). -/
def RunState.seqHeld : RunState → Bool
  | .held _ => true
  | .intercept => true
  | _ => false

/-- What the Line Interface holds for a line. -/
def LineIf.get (l : LineIf) : Line → LineState
  | .a => l.a
  | .b => l.b

/-- Replace what is held for a line. -/
def LineIf.set (l : LineIf) (x : Line) (s : LineState) : LineIf :=
  match x with
  | .a => { l with a := s }
  | .b => { l with b := s }

/-- The flags of the summary, most significant bit first (R186); `on` is the line of the reply. -/
def summaryFlags (p : Part) (on : Line) : List Bool :=
  [p.line.msgErr, p.line.bcast, p.anyCause, p.engine.motion == .tripped || p.engine.motion == .backout,
   !p.referenced, !p.clock.isSet, p.wind.hold, p.model.pending,
   p.power.writing.isSome, (p.line.get (Line.other on)).muted, p.runner.state.seqRunning, p.runner.state.seqHeld,
   p.engine.motion.moving, p.engine.motion == .tracking, p.engine.motion == .parked || p.engine.motion == .dormant,
   p.engine.disturbed]

/-- Flags as a 16-bit word, the first flag the most significant bit. -/
def packFlags (fl : List Bool) : BitVec 16 :=
  BitVec.ofNat 16 (fl.foldl (fun n b => 2 * n + if b then 1 else 0) 0)

/-- The summary (R186). -/
def summary (p : Part) (on : Line) : BitVec 16 := packFlags (summaryFlags p on)

end Sys2Proof.Machine
end

