-- ==== Sys2Proof/Machine/ClockMsgs.lean ====
section
/-! DEFINITION. The messages of the Site Clock and the Site Parameters (01): TIME, TRIM, CLKQ, SITE. -/

namespace Sys2Proof.Machine

/-- The clock a TIME sets (R3). -/
def Clock.setTime (c : Clock) (t : SiteTime) (theta : Mas) : Clock :=
  { c with isSet := true, anchorSite := t, anchorBase := c.timeBase, refTime := t, refAngle := theta, trim := none }

/-- The entry of a CLOCK_STEP report: the current list entry when the track belongs to one (R4). -/
def Part.trackEntry (p : Part) : Option Nat := if p.onEntry then p.list.current else none

/-- A TIME taken (R3, R4): the clock, the CLOCK_STEP notice, the Planner, and what the new reading brings at once. -/
def timeTaken (t : SiteTime) (theta : Mas) (p : Part) : Answer :=
  let step := p.clock.reading.map fun r => t - r
  let notice := p.engine.motion == .tracking && step.any fun d => !(within 1000 d)
  let q := { p with clock := p.clock.setTime t theta }
  let q := if notice then
      report { source := .list, reason := .clockStep, entry := q.trackEntry, az := none, el := none } q
    else q
  okWith [optNum step] (clockChanged (requestPass q))

/-- TIME (R3). -/
def ownTime (fs : List Field) (p : Part) : Answer :=
  match fs with
  | [.num t, .num theta] =>
    checked [(!(between 0 topTime t && between 0 (turn - 1) theta), .range)] p (timeTaken t theta p)
  | _ => refuse .malformed p

/-- The largest |Δ| a TRIM takes (R5). -/
def trimReach : Int := 500

/-- TRIM with the clock set (R5). -/
def trimTaken (t : SiteTime) (r : SiteTime) (p : Part) : Answer :=
  let delta := t - r
  if within trimReach delta then
    okWith [.num delta] { p with clock := { p.clock with
      anchorSite := r, anchorBase := p.now, trim := some { start := p.now, delta := delta } } }
  else { result := .tooFar, fields := [.num delta], part := p }

/-- TRIM (R5). A field out of range while the clock is unset is refused RANGE: DESIGN CHOICE (log 69). Of the refusals only
TOO_FAR carries Δ, the one that R5 computes before it refuses: DEDUCED (log 70). -/
def ownTrim (fs : List Field) (p : Part) : Answer :=
  match fs with
  | [.num t] =>
    if between 0 topTime t then
      match p.clock.reading with
      | none => refuse .noClock p
      | some r => trimTaken t r p
    else refuse .range p
  | _ => refuse .malformed p

/-- The trim's Δ and the blend still to run (R7). -/
def trimFields (p : Part) : List RField :=
  match p.clock.trim with
  | some t => [.num t.delta, .num (10000 - ((p.now : Int) - (t.start : Int)))]
  | none => [.num 0, .num 0]

/-- CLKQ (R7). -/
def ownClkq (fs : List Field) (p : Part) : Answer :=
  noFields fs p <| match p.clock.reading with
    | some t => okWith ([.text "SET", natF p.now, .num t, .num (p.clock.sidereal t), .num p.clock.refTime,
        .num p.clock.refAngle] ++ trimFields p) p
    | none => okWith [.text "UNSET", natF p.now, .absent, .absent, .absent, .absent, .num 0, .num 0] p

/-- The states in which SITE and AXCF write (R10, R51). -/
def Motion.settable : Motion → Bool
  | .unreferenced | .parked | .ready | .tripped | .dormant => true
  | _ => false

/-- The Site Parameters as reply fields. -/
def siteFields (p : Part) : List RField := [.num p.site.latitude, .num p.site.refraction]

/-- A SITE write taken (R10). -/
def siteTaken (lat k : Int) (p : Part) : Answer :=
  let p := requestPass { p with site := { latitude := lat, refraction := k } }
  okWith (siteFields p) p

/-- SITE (R10). -/
def ownSite (fs : List Field) (p : Part) : Answer :=
  match fs with
  | [] => okWith (siteFields p) p
  | [.num lat, .num k] =>
    checked [(!(within cap89 lat && between 0 70000 k), .range), (p.busyStore, .busy),
      (!p.engine.motion.settable, .busy)] p (siteTaken lat k p)
  | _ => refuse .malformed p

end Sys2Proof.Machine
end

