-- ==== Sys2Proof/Machine/ModelMsgs.lean ====
section
/-! DEFINITION. The messages of the Pointing Model (02): MTRM, MACT, MQRY. -/

namespace Sys2Proof.Machine

/-- The seven terms in order (R22). -/
def Terms.fields (t : Terms) : List RField :=
  [.num t.ia, .num t.ie, .num t.ca, .num t.np, .num t.an, .num t.ae, .num t.tf]

/-- One term replaced; none for a name not among the seven (R22). -/
def Terms.put (t : Terms) (name : String) (v : Mas) : Option Terms :=
  match name with
  | "IA" => some { t with ia := v }
  | "IE" => some { t with ie := v }
  | "CA" => some { t with ca := v }
  | "NP" => some { t with np := v }
  | "AN" => some { t with an := v }
  | "AE" => some { t with ae := v }
  | "TF" => some { t with tf := v }
  | _ => none

/-- Pairs of a name and a number put in place one after another. -/
def Terms.putAll (t : Terms) : List (String × Int) → Option Terms
  | [] => some t
  | (name, v) :: rest => (t.put name v).bind fun t => t.putAll rest

/-- Pairs whose values are all numbers. -/
def numPairs (ps : List (String × Field)) : Option (List (String × Int)) :=
  ps.mapM fun q => (Field.asNum q.2).map fun n => (q.1, n)

/-- MTRM's reading of its fields: the new staged set and its values, or none when they do not fit (R22). -/
def readTerms (fs : List Field) (m : Model) : Option (Terms × List Int) :=
  match fs with
  | [.word "REVERT"] => some (m.active, [])
  | [] => none
  | fs => (pairsOf fs).bind fun ps =>
      if namesRepeat ps then none
      else (numPairs ps).bind fun ns => (m.staged.putAll ns).map fun t => (t, ns.map Prod.snd)

/-- MTRM (R22). -/
def ownMtrm (fs : List Field) (p : Part) : Answer :=
  match readTerms fs p.model with
  | none => refuse .malformed p
  | some (t, values) =>
    checked [(!(values.all (within 3600000)), .range), (p.busyStore, .busy), (p.model.pending, .busy)] p
      (okWith t.fields { p with model := { p.model with staged := t } })

/-- Whether the engine follows or heads for a target (R23). -/
def Motion.following : Motion → Bool
  | .slewing | .settling | .tracking | .keyhole => true
  | _ => false

/-- MACT (R23, R25): R23 alone says when the flag is set, in the states from which READY is reached too: DEDUCED (log 56). -/
def ownMact (fs : List Field) (p : Part) : Answer :=
  let pending (q : Part) : Answer := { result := .pending, fields := [natF q.model.generation], part := q }
  noFields fs p <|
    if p.busyStore then refuse .busy p
    else if p.model.pending then pending p
    else if p.engine.motion.following then pending { p with model := { p.model with pending := true } }
    else let q := activate p; okWith [natF q.model.generation] q

/-- MQRY (R26). -/
def ownMqry (fs : List Field) (p : Part) : Answer :=
  let m := p.model
  match fs with
  | [] => okWith ([natF m.generation, yesNo m.pending] ++ m.active.fields) p
  | [.word "STAGED"] => okWith ([natF m.generation, yesNo m.pending] ++ m.staged.fields) p
  | [.word "AT", .num a, .num e] =>
    let da := azCorrection m.active a e
    let de := elCorrection m.active a e
    checked [(!(between 0 (turn - 1) a && within quarterTurn e), .range)] p
      (okWith [.num da, .num de, .num (a + da), .num (e + de)] p)
  | _ => refuse .malformed p

end Sys2Proof.Machine
end

