-- ==== Sys2Proof/Machine/MotionMsgs.lean ====
section
/-! DEFINITION. The messages of the Motion Engine (03) and its power states (11): GOTO, STOP, OFFS, AXCF, POSQ, PARK, UNPK,
DORM, WAKE, REFR, BACK. -/

namespace Sys2Proof.Machine

/-! ### GOTO (R41 to R45) -/

/-- A GOTO as it is read: its target, wrap preference and guide flag. -/
structure GotoAsk where
  coords : Coords
  pref : Pref
  guide : Bool
  deriving DecidableEq, Repr

/-- The optional words of a GOTO: at most one wrap word and, for SKY, GUIDE, in either order (R41). -/
def gotoWords (sky : Bool) : List String → Option (Pref × Bool)
  | [] => some (.near, false)
  | ["GUIDE"] => if sky then some (.near, true) else none
  | [w] => (prefOf w).map fun q => (q, false)
  | ["GUIDE", w] => if sky then (prefOf w).map fun q => (q, true) else none
  | [w, "GUIDE"] => if sky then (prefOf w).map fun q => (q, true) else none
  | _ => none

/-- The kind and its numbers (R41); the epoch and rates come together. -/
def gotoCoords (kind : String) (ns : List Int) : Option Coords :=
  match kind, ns with
  | "SKY", [ra, dec] => some (.sky ra dec none)
  | "SKY", [ra, dec, rr, rd, t] => some (.sky ra dec (some { ra := rr, dec := rd, epoch := t }))
  | "ALTAZ", [az, alt] => some (.altaz az alt)
  | "AXIS", [az, el] => some (.axis az el)
  | _, _ => none

/-- GOTO's fields read (R41); none is MALFORMED. -/
def readGoto (fs : List Field) : Option GotoAsk :=
  match fs with
  | .word kind :: rest =>
    let nums := rest.takeWhile fun f => (Field.asNum f).isSome
    (allNums nums).bind fun ns => (gotoCoords kind ns).bind fun c =>
      (allWords (rest.drop nums.length)).bind fun ws =>
        match c with
        | .axis .. => if ws.isEmpty then some { coords := c, pref := .near, guide := false } else none
        | .sky .. => (gotoWords true ws).map fun q => { coords := c, pref := q.1, guide := q.2 }
        | .altaz .. => (gotoWords false ws).map fun q => { coords := c, pref := q.1, guide := q.2 }
  | _ => none

/-- The fixed range of a rate in mas/h (R41, R79). -/
def rateReach : Mas := 36000000

/-- The ranges of rates and epoch (R41, R79). -/
def Rates.inRange (r : Rates) : Bool := within rateReach r.ra && within rateReach r.dec && between 0 topTime r.epoch

/-- The ranges of R41. -/
def gotoInRange (cfg : AxisCfg) : Coords → Bool
  | .sky ra dec rates => between 0 (turn - 1) ra && within quarterTurn dec && rates.all Rates.inRange
  | .altaz az alt => between 0 (turn - 1) az && between 0 quarterTurn alt
  | .axis az el => azInside cfg az && elInside cfg el

/-- Whether a target is SKY. -/
def Coords.isSky : Coords → Bool
  | .sky .. => true
  | _ => false

/-- Whether the state is one of a list of states. -/
def Motion.oneOf (m : Motion) (l : List Motion) : Bool := l.contains m

/-- The checks of R42 on the part's condition. -/
def gotoCondition (p : Part) (c : Coords) : List (Bool × Result) :=
  [(p.engine.motion.oneOf [.unreferenced, .waking, .referencing], .unref),
   (c.isSky && !p.clock.isSet, .noClock),
   (p.countsTripped, .tripped),
   (p.wind.hold, .wind),
   (p.engine.motion.oneOf [.parked, .dormant, .unparking, .parking], .state)]

/-- The checks of R42 on the destination. -/
def gotoDestination (p : Part) (g : GotoAsk) : Option Result :=
  let a := aimAt p g.coords p.siteNow
  let low := match a.place with
    | some pl => !(standsAbove p none pl)
    | none => false
  let judge (az : Mas) : Option Result :=
    firstFailing [(!(elInside p.engine.cfg a.axes.el), .range),
      (inZones p.limits { az := az, el := a.axes.el }, .zone), (low, .low)]
  match wrapChoice p g.coords p.siteNow 3600000 g.pref p.engine.az.demand with
  | .fits az => judge az
  | .longest az => judge az
  | .none => some .range

/-- A GOTO taken (R43, R44): the runner first, then the previous record, the new record, and the slew start or redirect. That
the old record is ended before the new one is created is a DESIGN CHOICE (log 58). -/
def gotoTaken (g : GotoAsk) (p : Part) : Answer :=
  let p := runnerGoto p
  let seq := p.log.next
  let p := createRecord .goto g.coords.kind (leaveForSlew seq p)
  let ask : Assignment :=
    { origin := .goto, coords := g.coords, pref := g.pref, guide := g.guide, dwell := none, estimate := none,
      minAlt := none, record := some seq }
  let p := if p.engine.motion = .slewing then redirect ask p else slewStart ask p
  match p.engine.target with
  | some t =>
    okWith [natF seq, .text t.side.word, .num t.destAz, .num t.destEl,
      natF (slewEstimate p.engine.cfg p.demands { az := t.destAz, el := t.destEl })] p
  | none => okWith [natF seq] p

/-- GOTO (R41 to R43). -/
def ownGoto (fs : List Field) (p : Part) : Answer :=
  match readGoto fs with
  | none => refuse .malformed p
  | some g =>
    checked ([(!(gotoInRange p.engine.cfg g.coords), .range)] ++ gotoCondition p g.coords) p <|
      match gotoDestination p g with
      | some r => refuse r p
      | none => gotoTaken g p

/-! ### STOP, PARK, UNPK (R36, R38, R40) -/

/-- What a STOP does to the engine (R36). -/
def engineStop (p : Part) : Part :=
  match p.engine.motion with
  | .slewing | .settling | .tracking | .keyhole | .parking => enterStopping (endGoto .ended (leavePassage p))
  | .referencing => referenceCheck (p.withEngine { p.engine with halting := true })
  | .backout => backoutCheck (p.withEngine { p.engine with halting := true })
  | .stopping | .stowing | .stowed | .unparking | .ready | .parked | .tripped | .dormant | .unreferenced
  | .waking => p

/-- The motion state as a reply field. -/
def motionField (p : Part) : RField := .text p.engine.motion.word

/-- STOP (R36, R117). -/
def ownStop (fs : List Field) (p : Part) : Answer :=
  noFields fs p <| let q := runnerStop (engineStop p); okWith [motionField q] q

/-- PARK (R38, R117). -/
def ownPark (fs : List Field) (p : Part) : Answer :=
  noFields fs p <|
    match p.engine.motion with
    | .unreferenced | .waking | .referencing => refuse .unref p
    | .tripped | .backout => refuse .tripped p
    | .stowing | .stowed => refuse .wind p
    | .ready | .unparking | .slewing | .settling | .tracking | .keyhole | .stopping | .parking | .parked
    | .dormant => okWith [] (runnerPark (enginePark p))

/-- UNPK (R40). -/
def ownUnpk (fs : List Field) (p : Part) : Answer :=
  noFields fs p <| checked [(p.wind.hold, .wind), (p.countsTripped, .tripped)] p <|
    match p.engine.motion with
    | .parked => okWith [] (enterUnparking p)
    | .unparking => okWith [] p
    | .unreferenced | .waking | .referencing | .dormant => refuse .unref p
    | _ => refuse .state p

/-! ### DORM, WAKE, REFR, BACK (R144, R146, R172, R174) -/

/-- Whether the runner is IDLE or HELD. -/
def RunState.atRest : RunState → Bool
  | .idle => true
  | .held _ => true
  | _ => false

/-- DORM (R172). -/
def ownDorm (fs : List Field) (p : Part) : Answer :=
  noFields fs p <|
    if p.engine.motion = .parked ∧ p.runner.state.atRest = true then okWith [] (goDormant p) else refuse .state p

/-- WAKE (R174). -/
def ownWake (fs : List Field) (p : Part) : Answer :=
  noFields fs p <|
    match p.engine.motion with
    | .dormant => okWith [] (wakeUp p)
    | .waking => okWith [] p
    | _ => refuse .state p

/-- An axis that begins a reference search: demand and reading count from 0 (R144). -/
def AxisState.beginSearch (s : Search) (x : AxisState) : AxisState :=
  { x with referenced := false, actual := none, zero := -x.encoder, demand := 0, velocity := 0, profile := none,
           captured := false, search := some s }

/-- The first search of an axis, turned at once when its pre-limit is already ACTIVE (R144). -/
def firstSearch (p : Part) (x : Axis) (d : Side) : Search :=
  if p.active (preLimit x d) then { dir := d.flip, reversed := true, found := false }
  else { dir := d, reversed := false, found := false }

/-- A REFR taken (R144). -/
def refrTaken (p : Part) : Answer :=
  let a := firstSearch p .az (if p.active .wrapSide then .neg else .pos)
  let e := firstSearch p .el .pos
  okWith [.text a.dir.word, .text e.dir.word] (p.withEngine { p.engine with
    motion := .referencing, halting := false,
    az := p.engine.az.beginSearch a, el := p.engine.el.beginSearch e })

/-- The directions of a run in progress, which an OK with no change shows: DEDUCED (log 38). -/
def searchFields (p : Part) : List RField :=
  [optSide (p.engine.az.search.map Search.dir), optSide (p.engine.el.search.map Search.dir)]

/-- REFR (R144). -/
def ownRefr (fs : List Field) (p : Part) : Answer :=
  noFields fs p <| checked [(p.wind.hold, .wind), (p.active .estop || p.faults.hasTrip, .tripped)] p <|
    match p.engine.motion with
    | .referencing => okWith (searchFields p) p
    | .unreferenced => refrTaken p
    | _ => refuse .state p

/-- An axis whose backout begins: from its actual position, or from a relative 0 (R147). -/
def AxisState.beginBackout (x : AxisState) : AxisState :=
  let x := if x.referenced then x else { x with zero := -x.encoder, demand := 0 }
  { x.enableHere with overSince := none }

/-- A BACK taken (R146, R147). -/
def backTaken (x : Axis) (d : Side) (p : Part) : Answer :=
  let a := (p.engine.axis x).beginBackout
  okWith [.text (match x with
      | .az => "AZ"
      | .el => "EL"), .text d.word] (p.withEngine { p.engine.setAxis x a with
    motion := .backout, halting := false, backout := some { axis := x, dir := d, start := a.demand } })

/-- The axis a word names. -/
def axisOf : String → Option Axis
  | "AZ" => some .az
  | "EL" => some .el
  | _ => none

/-- BACK with its axis (R146). -/
def backAsked (x : Axis) (p : Part) : Answer :=
  if !(p.engine.motion.oneOf [.tripped, .parked]) then refuse .state p
  else if p.active .estop then refuse .tripped p
  else match p.active (finLimit x .pos), p.active (finLimit x .neg) with
    | true, false => backTaken x .neg p
    | false, true => backTaken x .pos p
    | _, _ => refuse .state p

/-- BACK (R146). -/
def ownBack (fs : List Field) (p : Part) : Answer :=
  match fs with
  | [.word w] => match axisOf w with
    | some x => backAsked x p
    | none => refuse .malformed p
  | _ => refuse .malformed p

/-! ### OFFS (R46) -/

/-- The user offset as reply fields. -/
def offsFields (p : Part) : List RField := [.num p.engine.offArc, .num p.engine.offEl]

/-- OFFS (R46). Of a two-field OFFS out of range outside TRACKING the refusal is RANGE, the range checked before the state:
DESIGN CHOICE (log 60). -/
def ownOffs (fs : List Field) (p : Part) : Answer :=
  match fs with
  | [] => okWith (offsFields p) p
  | [.num a, .num e] =>
    checked [(!(within 3600000 a && within 3600000 e), .range), (p.engine.motion != .tracking, .state)] p <|
      let q := p.withEngine { p.engine with offArc := a, offEl := e }
      okWith (offsFields q) q
  | _ => refuse .malformed p

/-! ### AXCF (R50, R51) -/

/-- One setting of R50: its name, its own range, and how it is read and replaced. -/
structure AxisSetting where
  name : String
  lo : Int
  hi : Int
  read : AxisCfg → Int
  write : AxisCfg → Int → AxisCfg

/-- The largest |azimuth-axis position| (00_scope, Axis positions). -/
def azReach : Mas := 972000000

/-- The largest elevation-axis position (00_scope, Axis positions). -/
def elTop : Mas := 325800000

/-- The settings in the order of R50's table; R50 gives PARKAZ and STOWEL no fixed range but the soft limits, so their
own range is the axis's (log 19). -/
def axisSettings : List AxisSetting :=
  [⟨"AZLO", -azReach, azReach, (·.azLo), fun c v => { c with azLo := v }⟩,
   ⟨"AZHI", -azReach, azReach, (·.azHi), fun c v => { c with azHi := v }⟩,
   ⟨"ELLO", 0, elTop, (·.elLo), fun c v => { c with elLo := v }⟩,
   ⟨"ELHI", 0, elTop, (·.elHi), fun c v => { c with elHi := v }⟩,
   ⟨"AZVMAX", 360000, 36000000, (·.azVmax), fun c v => { c with azVmax := v }⟩,
   ⟨"ELVMAX", 360000, 36000000, (·.elVmax), fun c v => { c with elVmax := v }⟩,
   ⟨"ACCEL", 360000, 36000000, (·.accel), fun c v => { c with accel := v }⟩,
   ⟨"CREEP", 18000, 1800000, (·.creep), fun c v => { c with creep := v }⟩,
   ⟨"SETTLE", 0, 30000, (·.settle), fun c v => { c with settle := v }⟩,
   ⟨"ARRTOL", 500, 360000, (·.arrTol), fun c v => { c with arrTol := v }⟩]
  ++
  [⟨"TRKTOL", 100, 360000, (·.trkTol), fun c v => { c with trkTol := v }⟩,
   ⟨"TRIPTRK", 10000, 3600000, (·.tripTrk), fun c v => { c with tripTrk := v }⟩,
   ⟨"TRIPSLW", 360000, 36000000, (·.tripSlw), fun c v => { c with tripSlw := v }⟩,
   ⟨"PARKAZ", -azReach, azReach, (·.parkAz), fun c v => { c with parkAz := v }⟩,
   ⟨"PARKEL", 0, elTop, (·.parkEl), fun c v => { c with parkEl := v }⟩,
   ⟨"STOWEL", 0, elTop, (·.stowEl), fun c v => { c with stowEl := v }⟩,
   ⟨"KEYALT", 306000000, 322200000, (·.keyAlt), fun c v => { c with keyAlt := v }⟩,
   ⟨"AZINDEX", -azReach, azReach, (·.azIndex), fun c v => { c with azIndex := v }⟩,
   ⟨"ELINDEX", 0, elTop, (·.elIndex), fun c v => { c with elIndex := v }⟩]

/-- Every setting as name and value (R51). -/
def axcfFields (c : AxisCfg) : List RField := axisSettings.flatMap fun s => [.text s.name, .num (s.read c)]

/-- AXCF's fields read: pairs of a known name, each given once, and a number (R51 step 1). -/
def readAxcf (fs : List Field) : Option (List (AxisSetting × Int)) :=
  match fs with
  | [] => none
  | fs => (pairsOf fs).bind fun ps =>
      if namesRepeat ps then none
      else ps.mapM fun q => (axisSettings.find? fun s => s.name == q.1).bind fun s =>
        (Field.asNum q.2).map fun n => (s, n)

/-- Whether an axis's actual position, if it is referenced, lies within new limits (R51 step 5). -/
def AxisState.fits (lo hi : Mas) (x : AxisState) : Bool := !x.referenced || x.actual.all (between lo hi)

/-- Whether a configuration holds together (R51 step 5). -/
def cfgHolds (p : Part) (c : AxisCfg) : Bool :=
  decide (c.azLo < c.azHi) && decide (c.elLo < c.elHi) && azInside c c.parkAz && elInside c c.stowEl
  && p.engine.az.fits c.azLo c.azHi && p.engine.el.fits c.elLo c.elHi

/-- AXCF (R51). -/
def ownAxcf (fs : List Field) (p : Part) : Answer :=
  if fs.isEmpty then okWith (axcfFields p.engine.cfg) p
  else match readAxcf fs with
    | none => refuse .malformed p
    | some sets =>
      let c := sets.foldl (fun c q => q.1.write c q.2) p.engine.cfg
      checked [(!(sets.all fun q => between q.1.lo q.1.hi q.2), .range), (p.busyStore, .busy),
        (!p.engine.motion.settable, .busy), (!(cfgHolds p c), .range)] p <|
        okWith (axcfFields c) (requestPass (p.withEngine { p.engine with cfg := c }))

/-! ### POSQ (R52) -/

/-- The target's fields of POSQ: origin, kind, destination and wrap side around the user offset and the record. -/
def targetFields (p : Part) : List RField :=
  match p.engine.target with
  | some t => originFields t.given.origin ++ [.text t.given.coords.kind.word, .num t.destAz, .num t.destEl,
      .text t.side.word] ++ offsFields p ++ [optNat t.given.record]
  | none => [.absent, .absent, .absent, .absent, .absent, .absent] ++ offsFields p ++ [.absent]

/-- POSQ (R52). While an axis searches, or backs out unreferenced, its demand field shows the relative demand: R144 has the
relative figures not reported as positions, and R52 gives the demand no absent case. DESIGN CHOICE (log 73). -/
def ownPosq (fs : List Field) (p : Part) : Answer :=
  let e := p.engine
  noFields fs p <| okWith ([motionField p, yesNo e.az.referenced, yesNo e.el.referenced,
    .num e.az.demand, .num e.el.demand, optNum e.az.actual, optNum e.el.actual, optNum e.az.error,
    optNum e.el.error] ++ targetFields p) p

end Sys2Proof.Machine
end

