-- ==== Sys2Proof/Machine/LimitMsgs.lean ====
section
/-! DEFINITION. The messages of the Limit Checker (05): MASK, ZONE, LIMQ. -/

namespace Sys2Proof.Machine

/-- The largest mask value (R68). -/
def maskTop : Mas := 216000000

/-! ### MASK (R71) -/

/-- A mask point as reply fields. -/
def maskFields (p : Part) (i : Int) : List RField :=
  [.num i, .num (i * 36000000), .num (p.limits.mask.getD i.toNat 0)]

/-- Replace the mask and ask the Planner for a pass. -/
def putMask (m : List Mas) (p : Part) : Part := requestPass { p with limits := { p.limits with mask := m } }

/-- MASK (R71). -/
def ownMask (fs : List Field) (p : Part) : Answer :=
  match fs with
  | [.num i] => checked [(!(between 0 35 i), .range)] p (okWith (maskFields p i) p)
  | [.num i, .num v] =>
    checked [(!(between 0 35 i && between 0 maskTop v), .range), (p.busyStore, .busy)] p <|
      let q := putMask (p.limits.mask.set i.toNat v) p
      okWith (maskFields q i) q
  | [.word "ALL", .num v] =>
    checked [(!(between 0 maskTop v), .range), (p.busyStore, .busy)] p <|
      okWith [.text "ALL", .num v] (putMask (p.limits.mask.map fun _ => v) p)
  | _ => refuse .malformed p

/-! ### ZONE (R76) -/

/-- A zone as reply fields. -/
def zoneFields (p : Part) (n : Int) : List RField :=
  let z := p.limits.zones.getD n.toNat Zone.blank
  [.num n, .num z.azMin, .num z.azMax, .num z.elMin, .num z.elMax, onOffWord z.on]

/-- Change one zone and ask the Planner for a pass; the reply shows the zone after the message. -/
def putZone (n : Int) (f : Zone → Zone) (p : Part) : Answer :=
  let zones := p.limits.zones.modify n.toNat f
  let q := requestPass { p with limits := { p.limits with zones := zones } }
  okWith (zoneFields q n) q

/-- Whether four bounds are in range and in order (R68, R76). -/
def boundsHold (a b c d : Int) : Bool :=
  within azReach a && within azReach b && between 0 elTop c && between 0 elTop d && decide (a ≤ b) && decide (c ≤ d)

/-- The write of bounds, with an optional enable (R76). -/
def zoneBoundsAsked (n a b c d : Int) (on : Option Bool) (p : Part) : Answer :=
  checked [(!(between 0 7 n && boundsHold a b c d), .range), (p.busyStore, .busy)] p <|
    putZone n (fun z => { azMin := a, azMax := b, elMin := c, elMax := d, on := on.getD z.on }) p

/-- ZONE (R76). -/
def ownZone (fs : List Field) (p : Part) : Answer :=
  match fs with
  | [.num n] => checked [(!(between 0 7 n), .range)] p (okWith (zoneFields p n) p)
  | [.num n, .word w] => match onOff w with
    | some b => checked [(!(between 0 7 n), .range), (p.busyStore, .busy)] p
        (putZone n (fun z => { z with on := b }) p)
    | none => refuse .malformed p
  | [.num n, .num a, .num b, .num c, .num d] => zoneBoundsAsked n a b c d none p
  | [.num n, .num a, .num b, .num c, .num d, .word w] => match onOff w with
    | some on => zoneBoundsAsked n a b c d (some on) p
    | none => refuse .malformed p
  | _ => refuse .malformed p

/-! ### LIMQ (R77) -/

/-- The position R72 tests in the present state, if it tests one. -/
def testedPosition (p : Part) : Option AxisPair :=
  match p.engine.motion with
  | .slewing | .settling => p.engine.target.map fun t => { az := t.destAz, el := t.destEl }
  | .tracking | .keyhole | .ready => some p.demands
  | _ => none

/-- Zone indexes as reply fields. -/
def indexFields (l : List Nat) : List RField := l.map natF

/-- The zones that contain the tested position. -/
def testedZones (p : Part) : List RField :=
  match testedPosition p with
  | some q => indexFields (zonesAt p.limits q)
  | none => []

/-- Mask value, min altitude, ELLO, effective lower altitude and alt_app of the latest interval's evaluation; all absent for
an AXIS target. -/
def altitudeFields (p : Part) : List RField :=
  match p.engine.target.filter fun t => t.given.coords.kind != .axis, p.engine.seen with
  | some t, some (alt, az) => [.num (maskAt p.limits az), optNum t.given.minAlt, .num p.engine.cfg.elLo,
      .num (effectiveLower p t.given.minAlt az), .num alt]
  | _, _ => [.absent, .absent, .absent, .absent, .absent]

/-- The target's origin and kind, absent without a target. -/
def targetName (p : Part) : List RField :=
  match p.engine.target with
  | some t => originFields t.given.origin ++ [.text t.given.coords.kind.word]
  | none => [.absent, .absent, .absent]

/-- LIMQ (R77). -/
def ownLimq (fs : List Field) (p : Part) : Answer :=
  match fs with
  | [] => okWith (targetName p ++ altitudeFields p ++ testedZones p) p
  | [.word "AZ", .num a] => checked [(!(between 0 (turn - 1) a), .range)] p (okWith [.num (maskAt p.limits a)] p)
  | [.word "AXIS", .num az, .num el] =>
    checked [(!(within azReach az && between 0 elTop el), .range)] p <|
      okWith ([yesNo (azInside p.engine.cfg az), yesNo (elInside p.engine.cfg el)]
        ++ indexFields (zonesAt p.limits { az := az, el := el })) p
  | _ => refuse .malformed p

end Sys2Proof.Machine
end

