-- ==== Sys2Proof/Machine/ListMsgs.lean ====
section
/-! DEFINITION. The messages of the Night List (06): QADD and QSUB with their drafts, QDEL, QLST, TRAP. -/

namespace Sys2Proof.Machine

/-! ### Options (R79, R80) -/

/-- One option of a QADD or QSUB (R80). -/
inductive Opt where
  | rate (r : Rates)
  | nb (t : SiteTime)
  | na (t : SiteTime)
  | gu (t : SiteTime)
  | min (x : Mas)
  | grp (g : Int)
  | wrap (w : Pref)
  | guide
  | hold
  | next
  deriving DecidableEq, Repr

/-- The options of a part, and whether it ends with MORE (R80); none when they do not fit (R81 check 1). -/
def readOpts : List Field → Option (List Opt × Bool)
  | [] => some ([], false)
  | [.word "MORE"] => some ([], true)
  | .word "RATE" :: .num a :: .num b :: .num t :: rest =>
    (readOpts rest).map fun q => (.rate { ra := a, dec := b, epoch := t } :: q.1, q.2)
  | .word "NB" :: .num t :: rest => (readOpts rest).map fun q => (.nb t :: q.1, q.2)
  | .word "NA" :: .num t :: rest => (readOpts rest).map fun q => (.na t :: q.1, q.2)
  | .word "GU" :: .num t :: rest => (readOpts rest).map fun q => (.gu t :: q.1, q.2)
  | .word "MIN" :: .num x :: rest => (readOpts rest).map fun q => (.min x :: q.1, q.2)
  | .word "GRP" :: .num g :: rest => (readOpts rest).map fun q => (.grp g :: q.1, q.2)
  | .word "GUIDE" :: rest => (readOpts rest).map fun q => (.guide :: q.1, q.2)
  | .word "HOLD" :: rest => (readOpts rest).map fun q => (.hold :: q.1, q.2)
  | .word "NEXT" :: rest => (readOpts rest).map fun q => (.next :: q.1, q.2)
  | .word w :: rest => (prefOf w).bind fun x => (readOpts rest).map fun q => (.wrap x :: q.1, q.2)
  | _ :: _ => none

/-- The place an option fills: an option may be given once, and the three wrap words share a place (R81 check 1). -/
def Opt.place : Opt → Nat
  | .rate _ => 0
  | .nb _ => 1
  | .na _ => 2
  | .gu _ => 3
  | .min _ => 4
  | .grp _ => 5
  | .wrap _ => 6
  | .guide => 7
  | .hold => 8
  | .next => 9

/-- Whether an option belongs to a kind (R79). -/
def Opt.fitsKind (o : Opt) (k : Kind) : Bool :=
  match o, k with
  | .rate _, .sky => true
  | .guide, .sky => true
  | .min _, .sky => true
  | .min _, .altaz => true
  | .wrap _, .sky => true
  | .wrap _, .altaz => true
  | .nb _, k => k != .mark && k != .park
  | .na _, k => k != .mark && k != .park
  | .gu _, k => k != .mark && k != .park
  | .grp _, _ => true
  | .hold, .mark => true
  | .next, _ => true
  | _, _ => false

/-- The fixed range of an option's numbers (R79, R81 check 2). -/
def Opt.inRange : Opt → Bool
  | .rate r => r.inRange
  | .nb t => between 0 topTime t
  | .na t => between 0 topTime t
  | .gu t => between 0 topTime t
  | .min x => between 0 288000000 x
  | .grp g => between 1 255 g
  | .wrap _ => true
  | .guide => true
  | .hold => true
  | .next => true

/-- No option given (R79). -/
def Opts.none : Opts :=
  { rates := Option.none, notBefore := Option.none, notAfter := Option.none, giveUp := Option.none,
    minAlt := Option.none, group := Option.none, wrap := Option.none, guide := false, hold := false }

/-- An option put into an entry's fields; NEXT is no field. -/
def Opts.put (o : Opts) : Opt → Opts
  | .rate r => { o with rates := some r }
  | .nb t => { o with notBefore := some t }
  | .na t => { o with notAfter := some t }
  | .gu t => { o with giveUp := some t }
  | .min x => { o with minAlt := some x }
  | .grp g => { o with group := some g.toNat }
  | .wrap w => { o with wrap := some w }
  | .guide => { o with guide := true }
  | .hold => { o with hold := true }
  | .next => o

/-- The places already filled in a draft. -/
def Draft.places (d : Draft) : List Nat :=
  (if d.opts.rates.isSome then [0] else []) ++ (if d.opts.notBefore.isSome then [1] else [])
  ++ (if d.opts.notAfter.isSome then [2] else []) ++ (if d.opts.giveUp.isSome then [3] else [])
  ++ (if d.opts.minAlt.isSome then [4] else []) ++ (if d.opts.group.isSome then [5] else [])
  ++ (if d.opts.wrap.isSome then [6] else []) ++ (if d.opts.guide then [7] else [])
  ++ (if d.opts.hold then [8] else []) ++ (if d.next then [9] else [])

/-! ### Kinds and part checks (R80, R81) -/

/-- A kind word. -/
def kindOf : String → Option Kind
  | "SKY" => some .sky
  | "ALTAZ" => some .altaz
  | "AXIS" => some .axis
  | "MARK" => some .mark
  | "PARK" => some .park
  | _ => Option.none

/-- The kind's numbers and what follows them (R80); the dwell is kept as it was sent. -/
def readBody (k : Kind) (fs : List Field) : Option ((Int × Int × Int) × List Field) :=
  match k, fs with
  | .mark, fs => some ((0, 0, 0), fs)
  | .park, fs => some ((0, 0, 0), fs)
  | _, .num a :: .num b :: .num d :: rest => some ((a, b, d), rest)
  | _, _ => Option.none

/-- The range of a dwell (R79). -/
def dwellInRange (d : Int) : Bool := between 1000 7200000 d

/-- The fixed range of a kind's numbers (R79, R81 check 2). -/
def bodyInRange (k : Kind) (a b d : Int) : Bool :=
  match k with
  | .sky => between 0 (turn - 1) a && within quarterTurn b && dwellInRange d
  | .altaz => between 0 (turn - 1) a && between 0 quarterTurn b && dwellInRange d
  | .axis => within azReach a && between 0 elTop b && dwellInRange d
  | .mark => true
  | .park => true

/-- A kind with its numbers. -/
def makeBody (k : Kind) (a b d : Int) : Body :=
  match k with
  | .sky => .sky a b d.toNat
  | .altaz => .altaz a b d.toNat
  | .axis => .axis a b d.toNat
  | .mark => .mark
  | .park => .park

/-- Whether options may stand together with the places already filled, on a kind, under a verb; NEXT belongs to the
opening part of an ADD (R80, R81, R89). -/
def optsFit (verb : Verb) (opening : Bool) (k : Kind) (filled : List Nat) (os : List Opt) : Bool :=
  decide (filled ++ os.map Opt.place).Nodup && os.all (fun o => o.fitsKind k)
  && (opening && verb == .add || !os.contains .next)

/-- An entry id's range (R78). -/
def idInRange (n : Int) : Bool := between 1 65535 n

/-- An opening part that passes its part checks, and whether it ends with MORE; or the outcome of the first failing one. -/
def readOpening (verb : Verb) (id : Int) (k : Kind) (rest : List Field) : Except Result (Draft × Bool) :=
  match readBody k rest with
  | Option.none => .error .malformed
  | some ((a, b, d), tail) =>
    match readOpts tail with
    | Option.none => .error .malformed
    | some (os, more) =>
      if !(optsFit verb true k [] os) then .error .malformed
      else if !(idInRange id && bodyInRange k a b d && os.all Opt.inRange) then .error .range
      else .ok ({ id := id.toNat, verb := verb, body := makeBody k a b d, opts := os.foldl Opts.put Opts.none,
                  next := os.contains .next }, more)

/-- A continuation part that passes its part checks, put into the draft, and whether it ends with MORE (R83). -/
def readContinuation (d : Draft) (rest : List Field) : Except Result (Draft × Bool) :=
  match readOpts rest with
  | Option.none => .error .malformed
  | some (os, more) =>
    if !(optsFit d.verb false d.body.kind d.places os) then .error .malformed
    else if !(os.all Opt.inRange) then .error .range
    else .ok ({ d with opts := os.foldl Opts.put d.opts }, more)

/-! ### Completion (R81, R82, R89) -/

/-- Not-before greater than not-after (R81 check 3). -/
def windowsCross (o : Opts) : Bool :=
  match o.notBefore, o.notAfter with
  | some b, some a => decide (a < b)
  | _, _ => false

/-- An AXIS position outside the soft limits in force (R81 check 4). -/
def axisOutside (cfg : AxisCfg) : Body → Bool
  | .axis az el _ => !(azInside cfg az && elInside cfg el)
  | _ => false

/-- A plan record as it is created (R94). -/
def PlanRec.blank : PlanRec :=
  { current := false, start := Option.none, finish := Option.none, outcome := Option.none, side := Option.none,
    keyhole := false, altitude := Option.none }

/-- The entry a completed draft makes. -/
def Draft.entry (d : Draft) : Entry := { id := d.id, body := d.body, opts := d.opts, plan := PlanRec.blank }

/-- Where a new entry goes: the tail, behind the current entry, or the head (R82). -/
def placeEntry (l : NightList) (e : Entry) (next : Bool) : List Entry :=
  if !next then l.entries ++ [e]
  else match l.current, l.entries with
    | some _, x :: xs => x :: e :: xs
    | _, es => e :: es

/-- The completion of an ADD (R81, R82): the Planner is asked, then the runner is told. -/
def completeAdd (d : Draft) (p : Part) : Answer :=
  checked [(windowsCross d.opts, .range), (axisOutside p.engine.cfg d.body, .range),
    ((p.list.find d.id).isSome, .duplicate), (decide (96 ≤ p.list.entries.length), .full)] p <|
    let q := requestPass { p with list := { p.list with entries := placeEntry p.list d.entry d.next } }
    okWith [natF d.id, natF (q.list.position d.id), natF q.list.entries.length] (noticeHead q)

/-- The completion of a SUB (R89). -/
def completeSub (d : Draft) (p : Part) : Answer :=
  checked [(windowsCross d.opts, .range), (axisOutside p.engine.cfg d.body, .range),
    ((p.list.find d.id).isNone, .notFound), (p.list.current == some d.id, .inUse)] p <|
    let q := requestPass { p with list := { p.list with
      entries := p.list.entries.map fun e => if e.id = d.id then d.entry else e } }
    let isHead := q.head.any fun e => e.id == d.id
    okWith [natF d.id, natF (q.list.position d.id)] (if isHead then noticeSubstituted q else q)

/-- The completion checks of a draft's verb, and what follows. -/
def complete (d : Draft) (p : Part) : Answer :=
  match d.verb with
  | .add => completeAdd d p
  | .sub => completeSub d p

/-- Replace the draft. -/
def putDraft (d : Option Draft) (p : Part) : Part := { p with list := { p.list with draft := d } }

/-- Whether the draft has a verb and an id (R83). -/
def draftMatches (p : Part) (verb : Verb) (id : Int) : Bool :=
  p.list.draft.any fun d => d.verb == verb && decide ((d.id : Int) = id)

/-- A reply that waits for the rest of a draft (R83). -/
def draftPending (d : Draft) (p : Part) : Answer :=
  { result := .pending, fields := [natF d.id], part := putDraft (some d) p }

/-- An opening part, or a complete message (R83, R84): a complete message of the draft's own id and verb discards the
draft first, so the DUPLICATE of R84's last sentences does not arise and the draft's next part is NOTFOUND: DEDUCED
(log 53). -/
def openEntry (verb : Verb) (id : Int) (k : Kind) (rest : List Field) (p : Part) : Answer :=
  let whole := rest.getLast? != some (.word "MORE")
  let p := if whole && draftMatches p verb id then putDraft Option.none p else p
  match readOpening verb id k rest with
  | .error r => refuse r p
  | .ok (d, true) => draftPending d p
  | .ok (d, false) => complete d p

/-- A continuation part (R83, R84): one that fails its part checks discards the draft. -/
def continueEntry (verb : Verb) (id : Int) (rest : List Field) (p : Part) : Answer :=
  match p.list.draft with
  | Option.none => refuse .notFound p
  | some d =>
    if draftMatches p verb id then
      match readContinuation d rest with
      | .error r => refuse r (putDraft Option.none p)
      | .ok (d, true) => draftPending d p
      | .ok (d, false) => complete d (putDraft Option.none p)
    else refuse .notFound p

/-- The tag words of R80 and MORE: what a continuation may begin with. -/
def isTag (w : String) : Bool :=
  ["RATE", "NB", "NA", "GU", "MIN", "GRP", "NEAR", "POS", "NEG", "GUIDE", "HOLD", "NEXT", "MORE"].contains w

/-- QADD and QSUB (R80, R83, R89): a kind word after the id opens, a tag continues; anything else after the id is
MALFORMED, and discards a draft of that id and verb as a continuation that fails (log 21). -/
def ownEntry (verb : Verb) (fs : List Field) (p : Part) : Answer :=
  match fs with
  | [.num id] => continueEntry verb id [] p
  | .num id :: f :: rest =>
    match (Field.asWord f).bind kindOf with
    | some k => openEntry verb id k rest p
    | Option.none =>
      if (Field.asWord f).any isTag || draftMatches p verb id then continueEntry verb id (f :: rest) p
      else refuse .malformed p
  | _ => refuse .malformed p

/-! ### QDEL (R86 to R88) -/

/-- The deletion of every entry of a scope but the current one (R88): the runner is told once, after the last. -/
def deleteScope (scope : Entry → Bool) (p : Part) : Answer :=
  let goes (e : Entry) : Bool := scope e && p.list.current != some e.id
  let count := (p.list.entries.filter goes).length
  let spared := p.list.entries.any fun e => scope e && p.list.current == some e.id
  let q := if count = 0 then p
    else noticeHead (requestPass { p with list := { p.list with entries := p.list.entries.filter fun e => !(goes e) } })
  okWith [natF count, yesNo spared] q

/-- QDEL,ENTRY (R87). -/
def deleteEntry (id : Nat) (p : Part) : Answer :=
  if (p.list.find id).isNone then { result := .notFound, fields := [natF 0], part := p }
  else if p.list.current = some id then { result := .inUse, fields := [natF 0, yesNo true], part := p }
  else okWith [natF 1, yesNo false] (noticeHead (removeEntry id p))

/-- QDEL (R87, R88). -/
def ownQdel (fs : List Field) (p : Part) : Answer :=
  match fs with
  | [.word "ENTRY", .num id] => checked [(!(idInRange id), .range)] p (deleteEntry id.toNat p)
  | [.word "GROUP", .num n] =>
    checked [(!(between 1 255 n), .range)] p (deleteScope (fun e => e.opts.group == some n.toNat) p)
  | [.word "ALL"] => deleteScope (fun _ => true) p
  | _ => refuse .malformed p

/-! ### QLST (R90) -/

/-- The verb of a draft as a word. -/
def Verb.word : Verb → String
  | .add => "ADD"
  | .sub => "SUB"

/-- The coordinates as QADD orders them (R90). -/
def Body.coordFields : Body → List RField
  | .sky a d _ => [.num a, .num d]
  | .altaz a h _ => [.num a, .num h]
  | .axis a e _ => [.num a, .num e]
  | .mark => []
  | .park => []

/-- The dwell, absent for a kind that has none. -/
def Body.dwellField : Body → RField
  | .sky _ _ d => natF d
  | .altaz _ _ d => natF d
  | .axis _ _ d => natF d
  | .mark => .absent
  | .park => .absent

/-- A tag with one number, when the option is present. -/
def tagNum (tag : String) : Option Int → List RField
  | some n => [.text tag, .num n]
  | Option.none => []

/-- The options present, in the order of R80's table (R90). -/
def Opts.fields (o : Opts) : List RField :=
  (match o.rates with
    | some r => [.text "RATE", .num r.ra, .num r.dec, .num r.epoch]
    | Option.none => [])
  ++ tagNum "NB" o.notBefore ++ tagNum "NA" o.notAfter ++ tagNum "GU" o.giveUp ++ tagNum "MIN" o.minAlt
  ++ tagNum "GRP" (o.group.map Int.ofNat)
  ++ (match o.wrap with
    | some w => [.text w.word]
    | Option.none => [])
  ++ (if o.guide then [.text "GUIDE"] else []) ++ (if o.hold then [.text "HOLD"] else [])

/-- An entry of the list, or NOTFOUND (R90). -/
def withEntry (id : Int) (f : Entry → List RField) (p : Part) : Answer :=
  checked [(!(idInRange id), .range)] p <|
    match p.list.find id.toNat with
    | some e => okWith (f e) p
    | Option.none => refuse .notFound p

/-- The entries from a position counted from 1. -/
def NightList.from (l : NightList) (pos : Int) (n : Nat) : List Entry := (l.entries.drop (pos.toNat - 1)).take n

/-- QLST (R90). -/
def ownQlst (fs : List Field) (p : Part) : Answer :=
  let l := p.list
  match fs with
  | [] => okWith [natF l.entries.length, natF (96 - l.entries.length), optNat (p.head.map Entry.id), optNat l.current,
      optNat (l.draft.map Draft.id), (match l.draft with
        | some d => .text d.verb.word
        | Option.none => .absent)] p
  | [.word "FROM", .num k] =>
    checked [(!(between 1 96 k), .range)] p (okWith (.num k :: (l.from k 8).map fun e => natF e.id) p)
  | [.word "ID", .num id] =>
    withEntry id (fun e => [natF (l.position e.id), .text e.body.kind.word, optNat e.opts.group, e.body.dwellField]
      ++ e.body.coordFields) p
  | [.word "ID", .num id, .word "OPT"] => withEntry id (fun e => e.opts.fields) p
  | _ => refuse .malformed p

/-! ### TRAP (R91, R92) -/

/-- A slot as reply fields. -/
def slotFields (p : Part) (s : Int) : List RField :=
  let x := p.list.slots.getD s.toNat Slot.blank
  [.num s, optNat x.id, onOffWord x.on]

/-- Replace a slot; the reply shows it after the message. -/
def putSlot (s : Int) (x : Slot) (p : Part) : Answer :=
  let q := { p with list := { p.list with slots := p.list.slots.set s.toNat x } }
  okWith (slotFields q s) q

/-- Whether a slot other than `s` holds an id (R92). -/
def slotTaken (p : Part) (s : Int) (id : Nat) : Bool :=
  (List.range p.list.slots.length).any fun i =>
    i != s.toNat && (p.list.slots.getD i Slot.blank).id == some id

/-- A slot's number range (R91). -/
def slotInRange (s : Int) : Bool := between 0 3 s

/-- TRAP with a word (R92). -/
def trapWord (s : Int) (w : String) (p : Part) : Answer :=
  let x := p.list.slots.getD s.toNat Slot.blank
  match w with
  | "ON" => checked [(!(slotInRange s), .range), (x.id.isNone, .state)] p (putSlot s { x with on := true } p)
  | "OFF" => checked [(!(slotInRange s), .range)] p (putSlot s { x with on := false } p)
  | "CLEAR" => checked [(!(slotInRange s), .range)] p (putSlot s Slot.blank p)
  | _ => refuse .malformed p

/-- TRAP (R92). -/
def ownTrap (fs : List Field) (p : Part) : Answer :=
  match fs with
  | [.num s] => checked [(!(slotInRange s), .range)] p (okWith (slotFields p s) p)
  | [.num s, .num id] =>
    checked [(!(slotInRange s && idInRange id), .range), (slotTaken p s id.toNat, .duplicate)] p
      (putSlot s { id := some id.toNat, on := true } p)
  | [.num s, .word w] => trapWord s w p
  | _ => refuse .malformed p

end Sys2Proof.Machine
end

