-- ==== Sys2Proof/Machine/RunMsgs.lean ====
section
/-! DEFINITION. The messages of the List Runner and the Planner (07): QRUN, QHLD, QRES, QSKP, PLAN; and of the Guide Unit
(08): GUID, GCFG. -/

namespace Sys2Proof.Machine

/-- The runner state after the message. -/
def withRunState (p : Part) : Answer := okWith [.text p.runner.state.text] p

/-- QRUN's and QRES's way from IDLE and HELD: the checks of R98, then running. -/
def runAsked (p : Part) (done : Part → Answer) : Answer :=
  match runChecks p with
  | some r => refuse r p
  | none => done (startRunning p)

/-- QRUN (R98): every one answered OK asks the Planner for a pass. -/
def ownQrun (fs : List Field) (p : Part) : Answer :=
  noFields fs p <|
    if p.runner.state.running then withRunState (requestPass p)
    else runAsked p fun q => withRunState (requestPass q)

/-- QHLD (R99). -/
def ownQhld (fs : List Field) (p : Part) : Answer :=
  noFields fs p <|
    match p.runner.state with
    | .idle => refuse .state p
    | .acquiring | .observing => withRunState { p with runner := { p.runner with holdAfter := true } }
    | .empty | .waiting | .intercept => withRunState (enterHeld .host p)
    | .held _ => withRunState { p with runner := { p.runner with state := .held .host, windResume := false } }

/-- QRES (R100): it does not ask the Planner for a pass. -/
def ownQres (fs : List Field) (p : Part) : Answer :=
  noFields fs p <|
    match p.runner.state with
    | .intercept => match p.ctxEntry with
      | some e => withRunState (decideWith goOn e p)
      | none => withRunState p
    | .held _ => runAsked p withRunState
    | .idle | .empty | .waiting | .acquiring | .observing => refuse .state p

/-- QSKP (R115). -/
def ownQskp (fs : List Field) (p : Part) : Answer :=
  noFields fs p <|
    match p.runner.state with
    | .idle | .empty | .held _ => refuse .state p
    | .waiting | .intercept | .acquiring | .observing => withRunState (skipHead p)

/-! ### PLAN (R123) -/

/-- STALE or CURRENT. -/
def planStateWord (r : PlanRec) : RField := .text (if r.current then "CURRENT" else "STALE")

/-- An optional predicted outcome. -/
def outcomeField : Option Predicted → RField
  | some o => .text o.word
  | none => .absent

/-- A plan record in the order of R93. -/
def planFields (r : PlanRec) : List RField :=
  [planStateWord r, optNum r.start, optNum r.finish, outcomeField r.outcome, optSide r.side, yesNo r.keyhole,
   optNum r.altitude]

/-- How many entries' records satisfy a test. -/
def countPlans (p : Part) (f : PlanRec → Bool) : RField := natF (p.list.entries.countP fun e => f e.plan)

/-- PLAN (R123). -/
def ownPlan (fs : List Field) (p : Part) : Answer :=
  match fs with
  | [] => okWith [.text (if p.clock.isSet then (if p.planner.pass.isSome then "RUNNING" else "IDLE") else "NOCLOCK"),
      optNat (p.planner.pass.map Pass.cursor), countPlans p (fun r => r.current), countPlans p (fun r => !r.current),
      countPlans p (fun r => r.current && r.outcome.any fun o => o != .run)] p
  | [.word "ID", .num id] => withEntry id (fun e => planFields e.plan) p
  | [.word "FROM", .num k] =>
    checked [(!(between 1 96 k), .range)] p <| okWith (.num k :: (p.list.from k 4).flatMap fun e =>
      [natF e.id, planStateWord e.plan, outcomeField e.plan.outcome, optNum e.plan.start]) p
  | _ => refuse .malformed p

/-! ### GUID (R127 to R129) -/

/-- The Guide Unit as reply fields (R127). -/
def guideFields (g : Guide) : List RField :=
  [yesNo g.allowed, .num g.accA, .num g.accE, .num g.remA, .num g.remE, optNat g.counted, natF g.applied,
   natF g.superseded, natF g.clipped, yesNo g.saturated]

/-- A correction that is taken (R128, R129). -/
def correctionTaken (a e : Mas) (p : Part) : Answer :=
  let q := takeCorrection a e p
  okWith [.num q.guide.remA, .num q.guide.remE, yesNo (decide (p.guide.remA ≠ 0 ∨ p.guide.remE ≠ 0))] q

/-- GUID (R127). -/
def ownGuid (fs : List Field) (p : Part) : Answer :=
  match fs with
  | [] => okWith (guideFields p.guide) p
  | [.num a, .num e] =>
    checked [(!(within 3600000 a && within 3600000 e), .range), (!p.guide.allowed, .dropped)] p
      (correctionTaken a e p)
  | _ => refuse .malformed p

/-! ### GCFG (R133) -/

/-- The guide configuration as reply fields. -/
def gcfgFields (g : Guide) : List RField :=
  [.text "ENABLE", onOffWord g.enable, .text "RATE", .num g.rate, .text "STEP", .num g.step]

/-- One pair of a GCFG put in place; none when it does not fit. -/
def Guide.put (g : Guide) : String × Field → Option Guide
  | ("ENABLE", .word w) => (onOff w).map fun b => { g with enable := b }
  | ("RATE", .num n) => some { g with rate := n }
  | ("STEP", .num n) => some { g with step := n }
  | _ => none

/-- Pairs put in place one after another. -/
def Guide.putAll (g : Guide) : List (String × Field) → Option Guide
  | [] => some g
  | q :: rest => (g.put q).bind fun g => g.putAll rest

/-- GCFG's fields read (R133 check 1). -/
def readGcfg (fs : List Field) (g : Guide) : Option Guide :=
  (pairsOf fs).bind fun ps => if namesRepeat ps then none else g.putAll ps

/-- GCFG (R133); what ENABLE does to `allowed` and the remainder follows with the notices (R125). -/
def ownGcfg (fs : List Field) (p : Part) : Answer :=
  if fs.isEmpty then okWith (gcfgFields p.guide) p
  else match readGcfg fs p.guide with
    | none => refuse .malformed p
    | some g =>
      checked [(!(between 500 60000 g.rate && between 100 60000 g.step), .range), (p.busyStore, .busy)] p
        (okWith (gcfgFields g) { p with guide := g })

end Sys2Proof.Machine
end

