-- ==== Sys2Proof/Machine/InputMsgs.lean ====
section
/-! DEFINITION. The messages of the Input Filters and the Wind Logic (09): INCF, INPQ, STOW, WCFG. -/

namespace Sys2Proof.Machine

/-! ### INCF (R138) -/

/-- HIGH or LOW. -/
def levelOf : String → Option Level
  | "HIGH" => some .high
  | "LOW" => some .low
  | _ => none

/-- A polarity as a word. -/
def levelWord : Level → RField
  | .high => .text "HIGH"
  | .low => .text "LOW"

/-- What an INCF asks: polarity, filter code and enable, each where it is given. -/
structure InputAsk where
  pol : Option Level
  filt : Option Int
  en : Option Bool
  deriving DecidableEq, Repr

/-- One pair of an INCF; none when it does not fit (R138 check 1). -/
def InputAsk.put (a : InputAsk) : String × Field → Option InputAsk
  | ("POL", .word w) => (levelOf w).map fun l => { a with pol := some l }
  | ("FILT", .num n) => some { a with filt := some n }
  | ("EN", .word w) => (onOff w).map fun b => { a with en := some b }
  | _ => none

/-- Pairs put in place one after another. -/
def InputAsk.putAll (a : InputAsk) : List (String × Field) → Option InputAsk
  | [] => some a
  | q :: rest => (a.put q).bind fun a => a.putAll rest

/-- INCF's pairs read (R138 check 1). -/
def readIncf (fs : List Field) : Option InputAsk :=
  (pairsOf fs).bind fun ps =>
    if namesRepeat ps then none else InputAsk.putAll { pol := none, filt := none, en := none } ps

/-- Whether an input's enable can be switched: WIND and DOME only (R135). -/
def switchable (i : InputName) : Bool := i == .wind || i == .dome

/-- A level as the reports of INCF and INPQ show it. -/
def recognisedField (f : Filter) : RField :=
  .text (match f.recognised with
    | some true => "ACTIVE"
    | some false => "INACTIVE"
    | none => "OFF")

/-- An input's configuration as reply fields (R138). -/
def incfFields (p : Part) (i : InputName) : List RField :=
  let f := p.inputs.get i
  [.text (InputName.word i), levelWord f.cfg.polarity, natF f.cfg.code, onOffWord f.enabled, recognisedField f]

/-- The states in which an always-enabled input may be reconfigured (R138 check 4). -/
def Motion.limitsSettable (m : Motion) : Bool := m.oneOf [.unreferenced, .parked, .tripped, .dormant]

/-- The checks of R138 after the first. -/
def incfChecks (p : Part) (i : InputName) (a : InputAsk) : List (Bool × Result) :=
  let reconfigures := a.pol.isSome || a.filt.isSome
  [(!(a.filt.all (between 0 7)) || (a.en == some false && !switchable i), .range),
   (p.busyStore, .busy),
   (!switchable i && reconfigures && !p.engine.motion.limitsSettable, .busy),
   (switchable i && reconfigures && (p.inputs.get i).enabled, .busy)]

/-- An INCF write taken: the configuration, then the enable (R137, R138). -/
def incfTaken (i : InputName) (a : InputAsk) (p : Part) : Part :=
  let f := p.inputs.get i
  let cfg : FilterCfg := { polarity := a.pol.getD f.cfg.polarity, code := (a.filt.map Int.toNat).getD f.cfg.code }
  let p := { p with inputs := p.inputs.set i (f.reconfigure cfg p.now) }
  match a.en with
  | some true => if f.enabled then p else enableInput i p
  | some false => if f.enabled then disableInput i p else p
  | none => p

/-- INCF with its input named (R138). -/
def incfAsked (i : InputName) (rest : List Field) (p : Part) : Answer :=
  if rest.isEmpty then okWith (incfFields p i) p
  else match readIncf rest with
    | none => refuse .malformed p
    | some a => checked (incfChecks p i a) p (let q := incfTaken i a p; okWith (incfFields q i) q)

/-- INCF (R138). -/
def ownIncf (fs : List Field) (p : Part) : Answer :=
  match fs with
  | .word w :: rest => match inputOf w with
    | some i => incfAsked i rest p
    | none => refuse .malformed p
  | _ => refuse .malformed p

/-! ### INPQ (R139) -/

/-- The last sample, absent when there is none. -/
def lastField (f : Filter) : RField :=
  match f.last with
  | some true => .text "ACTIVE"
  | some false => .text "INACTIVE"
  | none => .absent

/-- INPQ (R139). -/
def ownInpq (fs : List Field) (p : Part) : Answer :=
  match fs with
  | [] => okWith (InputName.all.map fun i => recognisedField (p.inputs.get i)) p
  | [.word w] => match inputOf w with
    | some i =>
      let f := p.inputs.get i
      okWith [levelWord f.cfg.polarity, natF f.cfg.code, onOffWord f.enabled, lastField f, recognisedField f] p
    | none => refuse .malformed p
  | _ => refuse .malformed p

/-! ### STOW and WCFG (R150, R153) -/

/-- STOW (R150): the hold state it shows is that of the hold it starts (log 22). -/
def ownStow (fs : List Field) (p : Part) : Answer := noFields fs p (okWith [.text "HELD"] (stowTaken p))

/-- What a WCFG sets. -/
structure WindAsk where
  release : Int
  autoResume : Bool
  domeWait : Int
  deriving DecidableEq, Repr

/-- One pair of a WCFG; none when it does not fit. -/
def WindAsk.put (a : WindAsk) : String × Field → Option WindAsk
  | ("RELEASE", .num n) => some { a with release := n }
  | ("AUTORES", .word w) => (onOff w).map fun b => { a with autoResume := b }
  | ("DOMEWAIT", .num n) => some { a with domeWait := n }
  | _ => none

/-- Pairs put in place one after another. -/
def WindAsk.putAll (a : WindAsk) : List (String × Field) → Option WindAsk
  | [] => some a
  | q :: rest => (a.put q).bind fun a => a.putAll rest

/-- WCFG's fields read. -/
def readWcfg (fs : List Field) (p : Part) : Option WindAsk :=
  (pairsOf fs).bind fun ps =>
    if namesRepeat ps then none
    else WindAsk.putAll
      { release := p.wind.release, autoResume := p.wind.autoResume, domeWait := p.runner.domeWait } ps

/-- The three settings as reply fields. -/
def wcfgFields (a : WindAsk) : List RField :=
  [.text "RELEASE", .num a.release, .text "AUTORES", onOffWord a.autoResume, .text "DOMEWAIT", .num a.domeWait]

/-- A WCFG taken: the settings, then a timer or an absence that has already run for the new time (R152, R153). -/
def wcfgTaken (a : WindAsk) (p : Part) : Part :=
  domeCheck (windCheck { p with
    wind := { p.wind with release := a.release.toNat, autoResume := a.autoResume },
    runner := { p.runner with domeWait := a.domeWait.toNat } })

/-- WCFG (R153). -/
def ownWcfg (fs : List Field) (p : Part) : Answer :=
  if fs.isEmpty then
    okWith (wcfgFields { release := p.wind.release, autoResume := p.wind.autoResume, domeWait := p.runner.domeWait }) p
  else match readWcfg fs p with
    | none => refuse .malformed p
    | some a =>
      checked [(!(between 0 3600000 a.release && between 0 600000 a.domeWait), .range), (p.busyStore, .busy)] p
        (okWith (wcfgFields a) (wcfgTaken a p))

end Sys2Proof.Machine
end

