-- ==== Sys2Proof/Machine/FaultMsgs.lean ====
section
/-! DEFINITION. The messages of the Fault Table, the Alert Unit and the Run Log (10): FREC, FACK, ALRT, ACKA, RLOG; and of
Power Control (11): RSET, STOR. -/

namespace Sys2Proof.Machine

/-! ### FREC (R161) -/

/-- The record at an index. -/
def FaultTable.at_i (ft : FaultTable) (n : Nat) : Option FaultRec := (ft.recs[n]?).join

/-- The valid indexes in increasing order. -/
def FaultTable.valid (ft : FaultTable) : List Nat := (List.range 8).filter fun i => (ft.at_i i).isSome

/-- A fault record as reply fields (R161). -/
def faultFields (n : Int) (r : FaultRec) : List RField :=
  [.num n, .text r.severity.word, .text r.source.word, .text r.reason.word] ++ stampFields (some r.first)
  ++ stampFields (some r.last) ++ [natF r.count, optNat r.entry, optNum r.az, optNum r.el]

/-- An index's range (R154). -/
def faultIndex (n : Int) : Bool := between 0 7 n

/-- An answer of NOTHING with the index. -/
def nothingAt (n : Int) (p : Part) : Answer := { result := .nothing, fields := [.num n], part := p }

/-- FREC (R161). -/
def ownFrec (fs : List Field) (p : Part) : Answer :=
  match fs with
  | [] =>
    let v := p.faults.valid
    okWith ([natF v.length] ++ indexFields v ++ [optNat p.faults.order.head?, yesNo p.faults.overflow]) p
  | [.num n] => checked [(!(faultIndex n), .range)] p <|
    match p.faults.at_i n.toNat with
    | some r => okWith (faultFields n r) p
    | none => nothingAt n p
  | _ => refuse .malformed p

/-! ### FACK (R159, R160) -/

/-- Whether either final limit of an axis is recognised ACTIVE. -/
def Part.onFinal (p : Part) (x : Axis) : Bool := p.active (finLimit x .pos) || p.active (finLimit x .neg)

/-- Whether a final limit of a record's source axis is recognised ACTIVE. -/
def Part.sourceOnFinal (p : Part) (s : Source) : Bool :=
  match s with
  | .azAxis => p.onFinal .az
  | .elAxis => p.onFinal .el
  | _ => false

/-- The checks of R159 on a valid record. -/
def fackBarred (p : Part) (r : FaultRec) : Bool :=
  (r.reason == .finalLimit && p.sourceOnFinal r.source) || (r.reason == .estop && p.active .estop)
  || (r.severity == .trip && p.engine.motion == .backout)

/-- A record cleared, its index out of the creation order (R154, R159). -/
def FaultTable.clear (ft : FaultTable) (n : Nat) : FaultTable :=
  { ft with recs := ft.recs.set n none, order := ft.order.filter fun i => i != n }

/-- A FACK of a record taken; a WRAP_MISMATCH record's clearing releases the latch (R143, R159, R160). -/
def fackTaken (n : Int) (r : FaultRec) (p : Part) : Answer :=
  let p := { p with faults := p.faults.clear n.toNat }
  let p := if r.reason = .wrapMismatch then p.withEngine { p.engine with mismatch := false } else p
  let p := trippedExit p
  okWith [.num n, motionField p] p

/-- FACK of an index (R159). -/
def fackIndex (n : Int) (p : Part) : Answer :=
  match p.faults.at_i n.toNat with
  | none => nothingAt n p
  | some r => if fackBarred p r then refuse .state p else fackTaken n r p

/-- FACK,OVF (R159). -/
def fackOverflow (p : Part) : Answer :=
  if !p.faults.overflow then refuse .nothing p
  else if p.active .estop || p.onFinal .az || p.onFinal .el || p.engine.motion == .backout then refuse .state p
  else okWith [] (trippedExit { p with faults := { p.faults with overflow := false } })

/-- FACK (R159). -/
def ownFack (fs : List Field) (p : Part) : Answer :=
  match fs with
  | [.num n] => checked [(!(faultIndex n), .range)] p (fackIndex n p)
  | [.word "OVF"] => fackOverflow p
  | _ => refuse .malformed p

/-! ### ALRT and ACKA (R163) -/

/-- The causes set, in order (R163). -/
def causeFields (p : Part) : List RField :=
  (if p.faults.faultCause then [.text "FAULT"] else []) ++ (if p.alerts.mark then [.text "MARK"] else [])
  ++ (if p.alerts.intercept then [.text "INTERCEPT"] else []) ++ (if p.alerts.listEnd then [.text "LIST_END"] else [])
  ++ (if p.alerts.plan then [.text "PLAN"] else []) ++ (if p.alerts.wind then [.text "WIND"] else [])

/-- The mask, then the causes (R163). -/
def alertFields (p : Part) : List RField := .text (if p.alerts.masked then "SET" else "CLEAR") :: causeFields p

/-- Set or clear the mask. -/
def putAlertMask (b : Bool) (p : Part) : Answer :=
  let q := { p with alerts := { p.alerts with masked := b } }
  okWith (alertFields q) q

/-- ALRT (R163). -/
def ownAlrt (fs : List Field) (p : Part) : Answer :=
  match fs with
  | [] => okWith (alertFields p) p
  | [.word "MASK"] => putAlertMask true p
  | [.word "UNMASK"] => putAlertMask false p
  | _ => refuse .malformed p

/-- A cause cleared by its word; none for a word that names no settable cause. -/
def Alerts.clear (a : Alerts) : String → Option Alerts
  | "MARK" => some { a with mark := false }
  | "INTERCEPT" => some { a with intercept := false }
  | "LIST_END" => some { a with listEnd := false }
  | "PLAN" => some { a with plan := false }
  | "WIND" => some { a with wind := false }
  | _ => none

/-- Causes cleared one after another. -/
def Alerts.clearAll (a : Alerts) : List String → Option Alerts
  | [] => some a
  | w :: ws => (a.clear w).bind fun a => a.clearAll ws

/-- An ACKA taken. -/
def ackaTaken (a : Alerts) (p : Part) : Answer :=
  let q := { p with alerts := a }
  okWith (causeFields q) q

/-- ACKA's words without FAULT, which is refused with RANGE once the words are otherwise well formed (R163). -/
def ackaWords (ws : List String) (p : Part) : Answer :=
  match p.alerts.clearAll (ws.filter fun w => w != "FAULT") with
  | none => refuse .malformed p
  | some a =>
    if !(decide ws.Nodup) then refuse .malformed p
    else if ws.contains "FAULT" then refuse .range p
    else ackaTaken a p

/-- ACKA (R163). -/
def ownAcka (fs : List Field) (p : Part) : Answer :=
  match fs with
  | [] => refuse .malformed p
  | [.word "ALL"] =>
    ackaTaken { p.alerts with mark := false, intercept := false, listEnd := false, plan := false, wind := false } p
  | fs => match allWords fs with
    | none => refuse .malformed p
    | some ws => ackaWords ws p

/-! ### RLOG (R167) -/

/-- An outcome as a reply field. -/
def endingField : Option Ending → RField
  | some e => .text e.word
  | none => .absent

/-- A run record as reply fields (R167). -/
def runFields (r : RunRec) : List RField :=
  [natF r.seq] ++ originFields r.origin ++ [.text r.kind.word] ++ stampFields r.started ++ stampFields r.arrived
  ++ stampFields r.ended ++ [optNat r.supersededBy, endingField r.outcome, optSide r.side, optNat r.generation]

/-- A run record's counters as reply fields (R167). -/
def counterFields (r : RunRec) : List RField :=
  [natF r.seq, natF r.dwell, natF r.keyholeMs, natF r.disturbedMs, natF r.applied, natF r.superseded, natF r.clipped,
   yesNo r.saturated]

/-- A record read, or NOTFOUND. -/
def readRecord (r : Option RunRec) (f : RunRec → List RField) (p : Part) : Answer :=
  match r with
  | some r => okWith (f r) p
  | none => refuse .notFound p

/-- The record of a sequence number, with its range (R167). -/
def readSeq (n : Int) (f : RunRec → List RField) (p : Part) : Answer :=
  checked [(!(between 1 topTime n), .range)] p (readRecord (p.log.find n.toNat) f p)

/-- RLOG (R167). -/
def ownRlog (fs : List Field) (p : Part) : Answer :=
  let rs := p.log.records
  match fs with
  | [] => okWith [natF rs.length, optNat (rs.head?.map RunRec.seq), optNat (rs.getLast?.map RunRec.seq),
      optNat ((rs.find? RunRec.isOpen).map RunRec.seq), natF p.log.next] p
  | [.num n] => readSeq n runFields p
  | [.word "NEWEST"] => readRecord rs.getLast? runFields p
  | [.num n, .word "CNT"] => readSeq n counterFields p
  | [.word "NEWEST", .word "CNT"] => readRecord rs.getLast? counterFields p
  | _ => refuse .malformed p

/-! ### RSET and STOR (R175, R178) -/

/-- RSET (R175 step 1): the restart begins once the reply has been formed. -/
def ownRset (fs : List Field) (p : Part) : Answer := noFields fs p (okWith [] p)

/-- VALID or INVALID. -/
def validWord (b : Bool) : RField := .text (if b then "VALID" else "INVALID")

/-- Power Control as reply fields (R178). -/
def storFields (p : Part) : List RField :=
  (match p.power.writing with
    | some (b, _) => [.text "WRITING", natF (p.now - b)]
    | none => [.text "IDLE", .absent])
  ++ [validWord p.power.mark, validWord p.power.loadResult, natF p.power.waitCode]

/-- STOR (R178). -/
def ownStor (fs : List Field) (p : Part) : Answer :=
  match fs with
  | [] => checked [(p.busyStore, .busy)] p (okWith [natF p.now] (startWrite p))
  | [.word "WAIT", .num n] =>
    checked [(!(between 0 3 n), .range), (p.busyStore, .busy)] p
      (okWith [.num n] { p with power := { p.power with waitCode := n.toNat } })
  | [.word "READ"] => okWith (storFields p) p
  | _ => refuse .malformed p

end Sys2Proof.Machine
end

