-- ==== Sys2Proof/Machine/Frames.lean ====
section
/-! DEFINITION. Frames and replies as characters (R181, R184): the rendering of a reply, the place of each character of a
host frame, the check, and the reading of a complete frame. -/

namespace Sys2Proof.Machine

/-! ### Replies (R184) -/

/-- The character of a code. -/
def octet (c : Char) : Octet := BitVec.ofNat 8 c.toNat

/-- A text as characters. -/
def octets (s : String) : List Octet := s.toList.map octet

/-- The hexadecimal digit of a value below 16, upper case. -/
def hexDigit (n : Nat) : Octet := BitVec.ofNat 8 (if n < 10 then 48 + n else 55 + n)

/-- A value as two hexadecimal digits. -/
def hex2 (n : Nat) : List Octet := [hexDigit (n / 16 % 16), hexDigit (n % 16)]

/-- A value as four hexadecimal digits, the most significant first. -/
def hex4 (n : Nat) : List Octet := [hexDigit (n / 4096 % 16), hexDigit (n / 256 % 16)] ++ hex2 n

/-- An address as two decimal digits. -/
def addressDigits (a : BitVec 5) : List Octet :=
  [BitVec.ofNat 8 (48 + a.toNat / 10), BitVec.ofNat 8 (48 + a.toNat % 10)]

/-- The check: the sum of the character codes modulo 256 (R181). -/
def checkOf (l : List Octet) : Nat := (l.foldl (fun n o => n + o.toNat) 0) % 256

/-- A reply field's characters; an absent field is empty (R184). -/
def RField.octets : RField → List Octet
  | .num n => Machine.octets (toString n)
  | .text s => Machine.octets s
  | .absent => []

/-- The characters of a reply from the first address digit to the last before the check (R184). -/
def Reply.body (r : Reply) : List Octet :=
  addressDigits r.address ++ octets (Name.word r.name) ++ octets "," ++ octets r.result.word ++ octets ","
  ++ hex4 r.summary.toNat ++ r.fields.flatMap fun f => octets "," ++ f.octets

/-- A reply's characters, from its opening character to its CR (R184). -/
def Reply.octets (r : Reply) : List Octet :=
  [60] ++ r.body ++ [42] ++ hex2 (checkOf r.body) ++ [13]

/-! ### Host frames (R181) -/

/-- A field's characters as a host sends it; a field that is neither a number nor a word is sent empty (R181). -/
def fieldOctets : Field → List Octet
  | .num n => octets (toString n)
  | .word w => octets w
  | .bad => []

/-- The characters of a host frame between its opening character and its star (R181). -/
def frameBody (address : BitVec 5) (m : MsgName) (fs : List Field) : List Octet :=
  addressDigits address ++ octets (MsgName.word m) ++ fs.flatMap fun f => octets "," ++ fieldOctets f

/-- A host frame from its opening character to its last check digit; its CR follows (R181). -/
def hostFrame (address : BitVec 5) (m : MsgName) (fs : List Field) : List Octet :=
  [62] ++ frameBody address m fs ++ [42] ++ hex2 (checkOf (frameBody address m fs))

/-- What the next character of a frame may be (R181). -/
inductive Spot where
  | addr1
  | addr2 (tens : Nat)
  | name (taken : Nat)
  | fieldOrStar
  | field
  | check1
  | check2
  | cr
  deriving DecidableEq, Repr

/-- A decimal digit. -/
def isDigit (o : Octet) : Bool := decide (48 ≤ o.toNat ∧ o.toNat ≤ 57)

/-- An upper-case letter. -/
def isUpper (o : Octet) : Bool := decide (65 ≤ o.toNat ∧ o.toNat ≤ 90)

/-- A character of a field: a digit, an upper-case letter, `-` or `_`. -/
def isFieldChar (o : Octet) : Bool := isDigit o || isUpper o || o.toNat == 45 || o.toNat == 95

/-- A hexadecimal digit, 0–9 and A–F. -/
def isHex (o : Octet) : Bool := isDigit o || decide (65 ≤ o.toNat ∧ o.toNat ≤ 70)

/-- After a separator or a field's character: another, a comma, or the `*` of the check. -/
def fieldNext (o : Octet) : Option Spot :=
  if o.toNat = 44 then some .field else if o.toNat = 42 then some .check1 else none

/-- The place after a character, or none where the character is not allowed (R181). The final CR is judged apart. -/
def Spot.next (pl : Spot) (o : Octet) : Option Spot :=
  match pl with
  | .addr1 => if isDigit o && decide (o.toNat ≤ 51) then some (.addr2 (o.toNat - 48)) else none
  | .addr2 tens => if isDigit o && decide (tens * 10 + (o.toNat - 48) ≤ 31) then some (.name 0) else none
  | .name k => if isUpper o then some (if k = 3 then .fieldOrStar else .name (k + 1)) else none
  | .fieldOrStar => fieldNext o
  | .field => if isFieldChar o then some .field else fieldNext o
  | .check1 => if isHex o then some .check2 else none
  | .check2 => if isHex o then some .cr else none
  | .cr => none

/-- The place a frame has reached, its first character being the `>`. -/
def placeAfter (l : List Octet) : Option Spot :=
  l.tail.foldl (fun pl o => pl.bind fun q => q.next o) (some .addr1)

/-- The value of a hexadecimal digit. -/
def hexValue (o : Octet) : Nat := if isDigit o then o.toNat - 48 else o.toNat - 55

/-- A frame taken apart: its address, its name's letters and its fields' characters. -/
structure Frame where
  address : Nat
  letters : String
  fields : List (List Octet)
  deriving DecidableEq, Repr

/-- Characters as a text. -/
def textOf (l : List Octet) : String := String.ofList (l.map fun o => Char.ofNat o.toNat)

/-- Characters cut at the commas. -/
def cutCommas : List Octet → List (List Octet)
  | [] => [[]]
  | o :: rest =>
    match cutCommas rest with
    | [] => [[]]
    | g :: gs => if o.toNat = 44 then [] :: g :: gs else (o :: g) :: gs

/-- A frame from `>` to the last check digit that has reached its CR's place, with a right check (R181). -/
def readFrame (l : List Octet) : Option Frame :=
  let inner := (l.drop 1).take (l.length - 4)
  let given := l.drop (l.length - 2)
  let want := given.foldl (fun n o => 16 * n + hexValue o) 0
  if placeAfter l = some .cr ∧ checkOf inner = want then
    some { address := (inner.take 2).foldl (fun n o => 10 * n + (o.toNat - 48)) 0,
           letters := textOf ((inner.drop 2).take 4),
           fields := (cutCommas (inner.drop 6)).drop 1 }
  else none

/-- The value of decimal digits. -/
def decimal (l : List Octet) : Nat := l.foldl (fun n o => 10 * n + (o.toNat - 48)) 0

/-- Whether characters are 1 to 15 digits (R181). -/
def isNumber (l : List Octet) : Bool := l.all isDigit && decide (1 ≤ l.length ∧ l.length ≤ 15)

/-- A field as its owner reads it: a number, a word, or neither (R181). -/
def readField (l : List Octet) : Field :=
  match l with
  | [] => .bad
  | o :: rest =>
    if o.toNat = 45 then (if isNumber rest then .num (-(decimal rest : Int)) else .bad)
    else if isNumber l then .num (decimal l)
    else if l.all fun o => isUpper o || o.toNat == 95 then .word (textOf l)
    else .bad

end Sys2Proof.Machine
end

