-- ==== Sys2Proof/Machine/Lines.lean ====
section
/-! DEFINITION. The Line Interface (12): its own messages, the one message taker, and what a character, a gap and a
finished reply do. -/

namespace Sys2Proof.Machine

/-! ### The Line Interface's own messages (R187 to R190) -/

/-- STAT (R187): the summary every reply carries is its answer. -/
def ownStat (fs : List Field) (p : Part) : Answer := noFields fs p (okWith [] p)

/-- The last-message record as reply fields, each absent while it is empty. -/
def lastFields : Option LastMsg → List RField
  | some m => [.text (Name.word m.name), .text (Line.word m.line), .text (Cast.word m.cast), .text m.result.word]
  | none => [.absent, .absent, .absent, .absent]

/-- LAST (R187). -/
def ownLast (fs : List Field) (p : Part) : Answer := noFields fs p (okWith (lastFields p.line.last) p)

/-- The muted flag of the line other than the one a message arrived on (R188). -/
def putMute (on : Line) (b : Bool) (p : Part) : Part :=
  let o := Line.other on
  { p with line := p.line.set o { p.line.get o with muted := b } }

/-- MUTE (R188). -/
def ownMute (on : Line) (fs : List Field) (p : Part) : Answer := noFields fs p (okWith [] (putMute on true p))

/-- UNMT (R188). -/
def ownUnmt (on : Line) (fs : List Field) (p : Part) : Answer := noFields fs p (okWith [] (putMute on false p))

/-- The names locked on a line. -/
def LineIf.locks (l : LineIf) : Line → List MsgName
  | .a => l.locksA
  | .b => l.locksB

/-- Whether a name is locked on a line (R189). -/
def LineIf.isLocked (l : LineIf) (on : Line) (m : MsgName) : Bool := (l.locks on).contains m

/-- Replace the names locked on a line. -/
def LineIf.putLocks (l : LineIf) (on : Line) (ms : List MsgName) : LineIf :=
  match on with
  | .a => { l with locksA := ms }
  | .b => { l with locksB := ms }

/-- A name locked or unlocked on a line. -/
def lockPut (on : Line) (m : MsgName) (b : Bool) (p : Part) : Part :=
  let rest := (p.line.locks on).filter fun x => x != m
  { p with line := p.line.putLocks on (if b then m :: rest else rest) }

/-- LOCK,line (R189): the count and the names in the order of the message index. -/
def lockRead (on : Line) (p : Part) : Answer :=
  let names := MsgName.all.filter fun m => p.line.isLocked on m
  okWith ([.text (Line.word on), natF names.length] ++ names.map fun m => .text (MsgName.word m)) p

/-- LOCK with a line, a name and ON or OFF (R189). -/
def lockWrite (arrived on : Line) (m : MsgName) (b : Bool) (p : Part) : Answer :=
  checked [(m == .lock || m == .stat || m == .lrst, .range), (on == arrived, .state)] p
    (okWith [.text (Line.word on), .text (MsgName.word m), onOffWord b] (lockPut on m b p))

/-- LOCK (R189). -/
def ownLock (arrived : Line) (fs : List Field) (p : Part) : Answer :=
  match fs with
  | [.word w] => match lineOf w with
    | some on => lockRead on p
    | none => refuse .malformed p
  | [.word w, .word name, .word sw] => match lineOf w, msgOf name, onOff sw with
    | some on, some m, some b => lockWrite arrived on m b p
    | _, _, _ => refuse .malformed p
  | _ => refuse .malformed p

/-- A line after a taken LRST (R190). -/
def LineState.linkReset (l : LineState) : LineState := { l with buffer := [], muted := false }

/-- A taken LRST (R190). -/
def linkReset (p : Part) : Part :=
  { p with line := { p.line with a := p.line.a.linkReset, b := p.line.b.linkReset, last := none, msgErr := false,
                                 bcast := false } }

/-- LRST (R190). -/
def ownLrst (fs : List Field) (p : Part) : Answer := noFields fs p (okWith [] (linkReset p))

/-! ### The message taker (R182 to R185) -/

/-- The owner of a name (R183 step 4). -/
def ownerOf (m : MsgName) (on : Line) (fs : List Field) (p : Part) : Answer :=
  match m with
  | .time => ownTime fs p
  | .trim => ownTrim fs p
  | .clkq => ownClkq fs p
  | .site => ownSite fs p
  | .mtrm => ownMtrm fs p
  | .mact => ownMact fs p
  | .mqry => ownMqry fs p
  | .goto => ownGoto fs p
  | .stop => ownStop fs p
  | .offs => ownOffs fs p
  | .axcf => ownAxcf fs p
  | .posq => ownPosq fs p
  | .mask => ownMask fs p
  | .zone => ownZone fs p
  | .limq => ownLimq fs p
  | .qadd => ownEntry .add fs p
  | .qdel => ownQdel fs p
  | .qsub => ownEntry .sub fs p
  | .qlst => ownQlst fs p
  | .trap => ownTrap fs p
  | .qrun => ownQrun fs p
  | .qhld => ownQhld fs p
  | .qres => ownQres fs p
  | .qskp => ownQskp fs p
  | .plan => ownPlan fs p
  | .guid => ownGuid fs p
  | .gcfg => ownGcfg fs p
  | .incf => ownIncf fs p
  | .inpq => ownInpq fs p
  | .back => ownBack fs p
  | .stow => ownStow fs p
  | .wcfg => ownWcfg fs p
  | .frec => ownFrec fs p
  | .fack => ownFack fs p
  | .alrt => ownAlrt fs p
  | .acka => ownAcka fs p
  | .rlog => ownRlog fs p
  | .park => ownPark fs p
  | .unpk => ownUnpk fs p
  | .dorm => ownDorm fs p
  | .wake => ownWake fs p
  | .refr => ownRefr fs p
  | .rset => ownRset fs p
  | .stor => ownStor fs p
  | .stat => ownStat fs p
  | .last => ownLast fs p
  | .mute => ownMute on fs p
  | .unmt => ownUnmt on fs p
  | .lock => ownLock on fs p
  | .lrst => ownLrst fs p

/-- The broadcast list (R183 step 2). -/
def MsgName.castable (m : MsgName) : Bool :=
  [MsgName.time, .trim, .stow, .stop, .park, .lrst, .mute, .unmt].contains m

/-- Steps 1 to 4 of R183. -/
def judge (name : Name) (on : Line) (cast : Cast) (fs : List Field) (p : Part) : Answer :=
  match name with
  | .unknown _ => refuse .unknown p
  | .known m =>
    if cast == .broadcast && !MsgName.castable m then refuse .state p
    else if p.line.isLocked on m then refuse .locked p
    else ownerOf m on fs p

/-- Whether an outcome sets MSG_ERR (12, Outcome words). -/
def Result.isErr : Result → Bool
  | .ok => false
  | .pending => false
  | .dropped => false
  | .nothing => false
  | _ => true

/-- The names whose messages leave the flags and the last-message record alone (R183, R187). -/
def Name.silent : Name → Bool
  | .known .stat => true
  | .known .last => true
  | _ => false

/-- Whether a message is an LRST that was taken, whose own update is its clearing (R190). -/
def lrstTaken (name : Name) (r : Result) : Bool := name == .known .lrst && r == .ok

/-- The message flags and the last-message record after a message (R183). -/
def recordMessage (name : Name) (on : Line) (cast : Cast) (r : Result) (p : Part) : Part :=
  if Name.silent name || lrstTaken name r then p
  else { p with line := { p.line with
    msgErr := r.isErr, bcast := cast == .broadcast,
    last := some { name := name, line := on, cast := cast, result := r } } }

/-- The reply of an addressed message, unless its line is muted; the summary is formed here (R184). -/
def sendReply (name : Name) (on : Line) (cast : Cast) (r : Result) (fields : List RField) (p : Part) : Part :=
  let l := p.line.get on
  if cast == .broadcast || l.muted then p
  else
    let reply : Reply :=
      { address := p.line.address, name := name, result := r, summary := summary p on, fields := fields,
        since := p.now }
    { p with line := p.line.set on { l with reply := some reply } }

/-- An empty receive frame buffer. -/
def emptyBuffer (on : Line) (p : Part) : Part :=
  { p with line := p.line.set on { p.line.get on with buffer := [] } }

/-- The reply in progress on a line is cut off (R185). -/
def cutReply (on : Line) (p : Part) : Part :=
  { p with line := p.line.set on { p.line.get on with reply := none } }

/-- How a frame is taken: a part strapped to address 31 is listen-only (R182). -/
def effectiveCast (p : Part) (c : Cast) : Cast := if p.line.address = 31 then .broadcast else c

/-- Whether a line receives: the load has ended and no reply is being sent on it (R169, R181). -/
def Part.receives (p : Part) (on : Line) : Bool := p.power.loaded && (p.line.get on).reply.isNone

/-- What follows the message's effect: its reply, and the restart an RSET asked for (R175). -/
def afterMessage (name : Name) (on : Line) (cast : Cast) (a : Answer) : Part :=
  let p := sendReply name on cast a.result a.fields (recordMessage name on cast a.result a.part)
  if name == .known .rset && a.result == .ok then beginRestart p else p

/-- Taking a complete frame that is addressed to the part or broadcast (R183, R185); during a restart it is discarded
(R175). The frame's own buffer is empty after it. A reply that an RSET left running (R180) is cut off (R185) by a frame taken
on the other line once the restart has ended: DESIGN CHOICE (log 65). -/
def takeFrame (name : Name) (on : Line) (cast : Cast) (fs : List Field) (p : Part) : Part :=
  let p := emptyBuffer on p
  if p.power.restarting then p
  else
    let cast := effectiveCast p cast
    let p := cutReply (Line.other on) p
    afterMessage name on cast (judge name on cast fs p)

/-- A message command: its frame completes on its line, if that line receives. -/
def messageStep (name : Name) (arr : Arrival) (fs : List Field) (p : Part) : Part :=
  if p.receives arr.line then takeFrame name arr.line arr.cast fs p else p

/-! ### Characters (R181, R182) -/

/-- The longest frame, counted from `>`, without its CR (R181). -/
def frameLimit : Nat := 121

/-- The longest pause between two characters of a frame (R181). -/
def gapLimit : Ms := 20

/-- Whether the pause since a partial frame's latest character is too long (R181). -/
def Part.gapOver (p : Part) (on : Line) : Bool :=
  let l := p.line.get on
  !l.buffer.isEmpty && !(decide (p.now - l.charAt ≤ gapLimit))

/-- A complete frame handed on by its address (R182). -/
def frameDone (on : Line) (f : Frame) (p : Part) : Part :=
  if f.address = 31 then takeFrame (nameOf f.letters) on .broadcast (f.fields.map readField) p
  else if f.address = p.line.address.toNat then
    takeFrame (nameOf f.letters) on .addressed (f.fields.map readField) p
  else emptyBuffer on p

/-- A frame's buffer with one more character, or none when the character or the length ends the frame (R181). -/
def extend (buf : List Octet) (ch : Octet) : Option (List Octet) :=
  let buf := buf ++ [ch]
  if buf.length < frameLimit then (placeAfter buf).map fun _ => buf else none

/-- Keep a partial frame with the time base of its latest character. -/
def putBuffer (on : Line) (buf : List Octet) (p : Part) : Part :=
  { p with line := p.line.set on { p.line.get on with buffer := buf, charAt := p.now } }

/-- A character of a frame in progress (R181). -/
def frameChar (on : Line) (ch : Octet) (p : Part) : Part :=
  let buf := (p.line.get on).buffer
  if p.gapOver on then emptyBuffer on p
  else if ch.toNat = 13 then
    match readFrame buf with
    | some f => frameDone on f p
    | none => emptyBuffer on p
  else match extend buf ch with
    | some b => putBuffer on b p
    | none => emptyBuffer on p

/-- CHARACTER_RECEIVED (R181). -/
def charStep (on : Line) (ch : Octet) (p : Part) : Part :=
  if !p.receives on then p
  else if ch.toNat = 62 then putBuffer on [ch] p
  else if (p.line.get on).buffer.isEmpty then p
  else frameChar on ch p

/-- FRAME_GAP_TIMEOUT (R181). -/
def gapStep (on : Line) (p : Part) : Part := if p.gapOver on then emptyBuffer on p else p

/-- FRAME_REJECTED (R181): the partial frame is discarded, with no reply and no flag changed. -/
def rejectStep (on : Line) (p : Part) : Part := if p.receives on then emptyBuffer on p else p

/-- FRAME_OTHER_ADDRESS (R182): the frame is ignored. -/
def otherAddressStep (on : Line) (address : BitVec 5) (p : Part) : Part :=
  if p.receives on && address != p.line.address && address != 31 then emptyBuffer on p else p

/-- The whole milliseconds a reply's characters take at 10 bit times each (R180). -/
def Reply.airTime (r : Reply) : Ms := r.octets.length * 25 / 288

/-- REPLY_COMPLETE (R184): no sooner than its characters take. -/
def replyStep (on : Line) (p : Part) : Part :=
  match (p.line.get on).reply with
  | some r => if p.ran r.since r.airTime then cutReply on p else p
  | none => p

end Sys2Proof.Machine
end

