-- ==== Sys2Proof/Machine/Events.lean ====
section
/-! DEFINITION. The meanings of the rows that are events: what the outside world or the part's own clocks bring. An event
that is not due at the present instant changes nothing (log 5), and nothing but POWER_ON reaches an unpowered part. -/

namespace Sys2Proof.Machine

/-- What a command does to a powered part, and the notices it ends with; an unpowered part is left as it is. -/
def whenPowered (f : Part → Part) (p : Part) : Part := if p.power.powered then notices (f p) else p

/-- A command's effect on everything but the queue. -/
def onPart (f : Part → Part) (s : State) : Host.Outcome State Fault Refusal :=
  .next { s with part := whenPowered f s.part }

/-- The same for an event that may set the engine moving: what it begins during a restart is brought to rest (R54, R175). -/
def onEvent (f : Part → Part) (s : State) : Host.Outcome State Fault Refusal := onPart (stopBegun f) s

/-- POWER_ON (R169). -/
def execPowerOn (straps : BitVec 5) (s : State) : Host.Outcome State Fault Refusal :=
  .next { s with part := powerOnStep straps s.part }

/-- POWER_LOSS (R177). -/
def execPowerLoss (s : State) : Host.Outcome State Fault Refusal := onPart powerLossStep s

/-- STORE_LOAD_END (R170). -/
def execStoreLoadEnd (s : State) : Host.Outcome State Fault Refusal := onPart loadStep s

/-- ENCODER_WAIT_EXPIRY (R171). -/
def execEncoderWaitExpiry (s : State) : Host.Outcome State Fault Refusal := onPart waitStep s

/-- STORE_WRITE_END (R176). -/
def execStoreWriteEnd (s : State) : Host.Outcome State Fault Refusal := onPart writeEndStep s

/-- TRIM_FOLD (R6). -/
def execTrimFold (s : State) : Host.Outcome State Fault Refusal := onPart trimStep s

/-- DEMAND_INTERVAL (R29). -/
def execDemandInterval (rawAz rawEl : Int) (s : State) : Host.Outcome State Fault Refusal :=
  onEvent (demandStep rawAz rawEl) s

/-- SETTLE_TIMEOUT (R34). -/
def execSettleTimeout (s : State) : Host.Outcome State Fault Refusal := onPart settleStep s

/-- FOLLOWING_TRIP (R48). -/
def execFollowingTrip (s : State) : Host.Outcome State Fault Refusal := onPart followingStep s

/-- UNPARK_WAIT_EXPIRY (R40). -/
def execUnparkWaitExpiry (s : State) : Host.Outcome State Fault Refusal := onEvent unparkStep s

/-- INDEX_MARK (R145). -/
def execIndexMark (x : Axis) (raw : Int) (s : State) : Host.Outcome State Fault Refusal := onPart (indexStep x raw) s

/-- INPUT_RECOGNITION (R136). -/
def execInputRecognition (i : InputName) (level : Level) (s : State) : Host.Outcome State Fault Refusal :=
  onEvent (inputStep i level) s

/-- WIND_HOLD_END (R152). -/
def execWindHoldEnd (s : State) : Host.Outcome State Fault Refusal := onEvent windCheck s

/-- DOME_TIMEOUT (R110). -/
def execDomeTimeout (s : State) : Host.Outcome State Fault Refusal := onPart domeCheck s

/-- DWELL_COMPLETE (R111). -/
def execDwellComplete (s : State) : Host.Outcome State Fault Refusal := onPart dwellComplete s

/-- GIVE_UP (R113). -/
def execGiveUp (s : State) : Host.Outcome State Fault Refusal := onPart giveUp s

/-- START_INSTANT (R106). -/
def execStartInstant (s : State) : Host.Outcome State Fault Refusal := onEvent startInstant s

/-- PLAN_ENTRY_DONE (R120). -/
def execPlanEntryDone (s : State) : Host.Outcome State Fault Refusal := onPart planStep s

/-- RESTART_REINIT (R175). -/
def execRestartReinit (s : State) : Host.Outcome State Fault Refusal := onPart restartStep s

/-- REPLY_COMPLETE (R184). -/
def execReplyComplete (on : Line) (s : State) : Host.Outcome State Fault Refusal := onPart (replyStep on) s

/-- FRAME_GAP_TIMEOUT (R181). -/
def execFrameGapTimeout (on : Line) (s : State) : Host.Outcome State Fault Refusal := onPart (gapStep on) s

/-- FRAME_REJECTED (R181). -/
def execFrameRejected (on : Line) (s : State) : Host.Outcome State Fault Refusal := onPart (rejectStep on) s

/-- FRAME_OTHER_ADDRESS (R182). -/
def execFrameOtherAddress (on : Line) (address : BitVec 5) (s : State) : Host.Outcome State Fault Refusal :=
  onPart (otherAddressStep on address) s

/-- CHARACTER_RECEIVED (R181). -/
def execCharacterReceived (on : Line) (ch : Octet) (s : State) : Host.Outcome State Fault Refusal :=
  onPart (charStep on ch) s

end Sys2Proof.Machine
end

