-- ==== Sys2Proof/Machine/Messages.lean ====
section
/-! DEFINITION. The meanings of the rows that are messages: a complete frame of that name is taken (R183), and the block
that owns the name applies the row's rule. Rows of one name are forms of one message, told apart by their fields. -/

namespace Sys2Proof.Machine

/-- MESSAGE_UNKNOWN (R183): a complete frame whose name is not in the index. -/
def execMessageUnknown (a : Arrival) (letters : String) (fs : List Field) (s : State) :
    Host.Outcome State Fault Refusal := onPart (messageStep (.unknown letters) a fs) s

/-- TIME (R3). -/
def execTime (a : Arrival) (fs : List Field) (s : State) : Host.Outcome State Fault Refusal :=
  onPart (messageStep (.known .time) a fs) s

/-- TRIM (R5). -/
def execTrim (a : Arrival) (fs : List Field) (s : State) : Host.Outcome State Fault Refusal :=
  onPart (messageStep (.known .trim) a fs) s

/-- CLKQ (R7). -/
def execClkq (a : Arrival) (fs : List Field) (s : State) : Host.Outcome State Fault Refusal :=
  onPart (messageStep (.known .clkq) a fs) s

/-- SITE (R10). -/
def execSite (a : Arrival) (fs : List Field) (s : State) : Host.Outcome State Fault Refusal :=
  onPart (messageStep (.known .site) a fs) s

/-- MTRM (R22). -/
def execMtrm (a : Arrival) (fs : List Field) (s : State) : Host.Outcome State Fault Refusal :=
  onPart (messageStep (.known .mtrm) a fs) s

/-- MACT (R23). -/
def execMact (a : Arrival) (fs : List Field) (s : State) : Host.Outcome State Fault Refusal :=
  onPart (messageStep (.known .mact) a fs) s

/-- MQRY (R26). -/
def execMqry (a : Arrival) (fs : List Field) (s : State) : Host.Outcome State Fault Refusal :=
  onPart (messageStep (.known .mqry) a fs) s

/-- GOTO (R43). -/
def execGoto (a : Arrival) (fs : List Field) (s : State) : Host.Outcome State Fault Refusal :=
  onPart (messageStep (.known .goto) a fs) s

/-- STOP (R36). -/
def execStop (a : Arrival) (fs : List Field) (s : State) : Host.Outcome State Fault Refusal :=
  onPart (messageStep (.known .stop) a fs) s

/-- OFFS (R46). -/
def execOffs (a : Arrival) (fs : List Field) (s : State) : Host.Outcome State Fault Refusal :=
  onPart (messageStep (.known .offs) a fs) s

/-- AXCF (R51). -/
def execAxcf (a : Arrival) (fs : List Field) (s : State) : Host.Outcome State Fault Refusal :=
  onPart (messageStep (.known .axcf) a fs) s

/-- POSQ (R52). -/
def execPosq (a : Arrival) (fs : List Field) (s : State) : Host.Outcome State Fault Refusal :=
  onPart (messageStep (.known .posq) a fs) s

/-- MASK_READ (R71). -/
def execMaskRead (a : Arrival) (fs : List Field) (s : State) : Host.Outcome State Fault Refusal :=
  onPart (messageStep (.known .mask) a fs) s

/-- MASK_WRITE (R71). -/
def execMaskWrite (a : Arrival) (fs : List Field) (s : State) : Host.Outcome State Fault Refusal :=
  onPart (messageStep (.known .mask) a fs) s

/-- MASK_ALL (R71). -/
def execMaskAll (a : Arrival) (fs : List Field) (s : State) : Host.Outcome State Fault Refusal :=
  onPart (messageStep (.known .mask) a fs) s

/-- ZONE_READ (R76). -/
def execZoneRead (a : Arrival) (fs : List Field) (s : State) : Host.Outcome State Fault Refusal :=
  onPart (messageStep (.known .zone) a fs) s

/-- ZONE_ENABLE (R76). -/
def execZoneEnable (a : Arrival) (fs : List Field) (s : State) : Host.Outcome State Fault Refusal :=
  onPart (messageStep (.known .zone) a fs) s

/-- ZONE_BOUNDS (R76). -/
def execZoneBounds (a : Arrival) (fs : List Field) (s : State) : Host.Outcome State Fault Refusal :=
  onPart (messageStep (.known .zone) a fs) s

/-- LIMQ (R77). -/
def execLimq (a : Arrival) (fs : List Field) (s : State) : Host.Outcome State Fault Refusal :=
  onPart (messageStep (.known .limq) a fs) s

/-- QADD (R81). -/
def execQadd (a : Arrival) (fs : List Field) (s : State) : Host.Outcome State Fault Refusal :=
  onPart (messageStep (.known .qadd) a fs) s

/-- QDEL_ENTRY (R87). -/
def execQdelEntry (a : Arrival) (fs : List Field) (s : State) : Host.Outcome State Fault Refusal :=
  onPart (messageStep (.known .qdel) a fs) s

/-- QDEL_GROUP (R88). -/
def execQdelGroup (a : Arrival) (fs : List Field) (s : State) : Host.Outcome State Fault Refusal :=
  onPart (messageStep (.known .qdel) a fs) s

/-- QDEL_ALL (R88). -/
def execQdelAll (a : Arrival) (fs : List Field) (s : State) : Host.Outcome State Fault Refusal :=
  onPart (messageStep (.known .qdel) a fs) s

/-- QSUB (R89). -/
def execQsub (a : Arrival) (fs : List Field) (s : State) : Host.Outcome State Fault Refusal :=
  onPart (messageStep (.known .qsub) a fs) s

/-- QLST (R90). -/
def execQlst (a : Arrival) (fs : List Field) (s : State) : Host.Outcome State Fault Refusal :=
  onPart (messageStep (.known .qlst) a fs) s

/-- TRAP_READ (R92). -/
def execTrapRead (a : Arrival) (fs : List Field) (s : State) : Host.Outcome State Fault Refusal :=
  onPart (messageStep (.known .trap) a fs) s

/-- TRAP_SET (R92). -/
def execTrapSet (a : Arrival) (fs : List Field) (s : State) : Host.Outcome State Fault Refusal :=
  onPart (messageStep (.known .trap) a fs) s

/-- TRAP_ON (R92). -/
def execTrapOn (a : Arrival) (fs : List Field) (s : State) : Host.Outcome State Fault Refusal :=
  onPart (messageStep (.known .trap) a fs) s

/-- TRAP_OFF (R92). -/
def execTrapOff (a : Arrival) (fs : List Field) (s : State) : Host.Outcome State Fault Refusal :=
  onPart (messageStep (.known .trap) a fs) s

/-- TRAP_CLEAR (R92). -/
def execTrapClear (a : Arrival) (fs : List Field) (s : State) : Host.Outcome State Fault Refusal :=
  onPart (messageStep (.known .trap) a fs) s

/-- QRUN (R98). -/
def execQrun (a : Arrival) (fs : List Field) (s : State) : Host.Outcome State Fault Refusal :=
  onPart (messageStep (.known .qrun) a fs) s

/-- QHLD (R99). -/
def execQhld (a : Arrival) (fs : List Field) (s : State) : Host.Outcome State Fault Refusal :=
  onPart (messageStep (.known .qhld) a fs) s

/-- QRES (R100). -/
def execQres (a : Arrival) (fs : List Field) (s : State) : Host.Outcome State Fault Refusal :=
  onPart (messageStep (.known .qres) a fs) s

/-- QSKP (R115). -/
def execQskp (a : Arrival) (fs : List Field) (s : State) : Host.Outcome State Fault Refusal :=
  onPart (messageStep (.known .qskp) a fs) s

/-- PLAN (R123). -/
def execPlan (a : Arrival) (fs : List Field) (s : State) : Host.Outcome State Fault Refusal :=
  onPart (messageStep (.known .plan) a fs) s

/-- GUID_READ (R127). -/
def execGuidRead (a : Arrival) (fs : List Field) (s : State) : Host.Outcome State Fault Refusal :=
  onPart (messageStep (.known .guid) a fs) s

/-- GUID_CORRECTION (R129). -/
def execGuidCorrection (a : Arrival) (fs : List Field) (s : State) : Host.Outcome State Fault Refusal :=
  onPart (messageStep (.known .guid) a fs) s

/-- GCFG (R133). -/
def execGcfg (a : Arrival) (fs : List Field) (s : State) : Host.Outcome State Fault Refusal :=
  onPart (messageStep (.known .gcfg) a fs) s

/-- INCF (R138). -/
def execIncf (a : Arrival) (fs : List Field) (s : State) : Host.Outcome State Fault Refusal :=
  onPart (messageStep (.known .incf) a fs) s

/-- INPQ (R139). -/
def execInpq (a : Arrival) (fs : List Field) (s : State) : Host.Outcome State Fault Refusal :=
  onPart (messageStep (.known .inpq) a fs) s

/-- BACK (R146). -/
def execBack (a : Arrival) (fs : List Field) (s : State) : Host.Outcome State Fault Refusal :=
  onPart (messageStep (.known .back) a fs) s

/-- STOW (R150). -/
def execStow (a : Arrival) (fs : List Field) (s : State) : Host.Outcome State Fault Refusal :=
  onPart (messageStep (.known .stow) a fs) s

/-- WCFG (R153). -/
def execWcfg (a : Arrival) (fs : List Field) (s : State) : Host.Outcome State Fault Refusal :=
  onPart (messageStep (.known .wcfg) a fs) s

/-- FREC (R161). -/
def execFrec (a : Arrival) (fs : List Field) (s : State) : Host.Outcome State Fault Refusal :=
  onPart (messageStep (.known .frec) a fs) s

/-- FACK (R159). -/
def execFack (a : Arrival) (fs : List Field) (s : State) : Host.Outcome State Fault Refusal :=
  onPart (messageStep (.known .fack) a fs) s

/-- ALRT_READ (R163). -/
def execAlrtRead (a : Arrival) (fs : List Field) (s : State) : Host.Outcome State Fault Refusal :=
  onPart (messageStep (.known .alrt) a fs) s

/-- ALRT_MASK (R163). -/
def execAlrtMask (a : Arrival) (fs : List Field) (s : State) : Host.Outcome State Fault Refusal :=
  onPart (messageStep (.known .alrt) a fs) s

/-- ALRT_UNMASK (R163). -/
def execAlrtUnmask (a : Arrival) (fs : List Field) (s : State) : Host.Outcome State Fault Refusal :=
  onPart (messageStep (.known .alrt) a fs) s

/-- ACKA (R163). -/
def execAcka (a : Arrival) (fs : List Field) (s : State) : Host.Outcome State Fault Refusal :=
  onPart (messageStep (.known .acka) a fs) s

/-- RLOG (R167). -/
def execRlog (a : Arrival) (fs : List Field) (s : State) : Host.Outcome State Fault Refusal :=
  onPart (messageStep (.known .rlog) a fs) s

/-- PARK (R38). -/
def execPark (a : Arrival) (fs : List Field) (s : State) : Host.Outcome State Fault Refusal :=
  onPart (messageStep (.known .park) a fs) s

/-- UNPK (R40). -/
def execUnpk (a : Arrival) (fs : List Field) (s : State) : Host.Outcome State Fault Refusal :=
  onPart (messageStep (.known .unpk) a fs) s

/-- DORM (R172). -/
def execDorm (a : Arrival) (fs : List Field) (s : State) : Host.Outcome State Fault Refusal :=
  onPart (messageStep (.known .dorm) a fs) s

/-- WAKE (R174). -/
def execWake (a : Arrival) (fs : List Field) (s : State) : Host.Outcome State Fault Refusal :=
  onPart (messageStep (.known .wake) a fs) s

/-- REFR (R144). -/
def execRefr (a : Arrival) (fs : List Field) (s : State) : Host.Outcome State Fault Refusal :=
  onPart (messageStep (.known .refr) a fs) s

/-- RSET (R175). -/
def execRset (a : Arrival) (fs : List Field) (s : State) : Host.Outcome State Fault Refusal :=
  onPart (messageStep (.known .rset) a fs) s

/-- STOR (R178). -/
def execStor (a : Arrival) (fs : List Field) (s : State) : Host.Outcome State Fault Refusal :=
  onPart (messageStep (.known .stor) a fs) s

/-- STOR_WAIT (R178). -/
def execStorWait (a : Arrival) (fs : List Field) (s : State) : Host.Outcome State Fault Refusal :=
  onPart (messageStep (.known .stor) a fs) s

/-- STOR_READ (R178). -/
def execStorRead (a : Arrival) (fs : List Field) (s : State) : Host.Outcome State Fault Refusal :=
  onPart (messageStep (.known .stor) a fs) s

/-- STAT (R187). -/
def execStat (a : Arrival) (fs : List Field) (s : State) : Host.Outcome State Fault Refusal :=
  onPart (messageStep (.known .stat) a fs) s

/-- LAST (R187). -/
def execLast (a : Arrival) (fs : List Field) (s : State) : Host.Outcome State Fault Refusal :=
  onPart (messageStep (.known .last) a fs) s

/-- MUTE (R188). -/
def execMute (a : Arrival) (fs : List Field) (s : State) : Host.Outcome State Fault Refusal :=
  onPart (messageStep (.known .mute) a fs) s

/-- UNMT (R188). -/
def execUnmt (a : Arrival) (fs : List Field) (s : State) : Host.Outcome State Fault Refusal :=
  onPart (messageStep (.known .unmt) a fs) s

/-- LOCK_READ (R189). -/
def execLockRead (a : Arrival) (fs : List Field) (s : State) : Host.Outcome State Fault Refusal :=
  onPart (messageStep (.known .lock) a fs) s

/-- LOCK_WRITE (R189). -/
def execLockWrite (a : Arrival) (fs : List Field) (s : State) : Host.Outcome State Fault Refusal :=
  onPart (messageStep (.known .lock) a fs) s

/-- LRST (R190). -/
def execLrst (a : Arrival) (fs : List Field) (s : State) : Host.Outcome State Fault Refusal :=
  onPart (messageStep (.known .lrst) a fs) s

end Sys2Proof.Machine
end

