-- ==== Sys2Proof/Machine/Dispatch.lean ====
section
/-! DEFINITION. One arm per command: the meaning of each row of spec/opcode_table.json. -/

namespace Sys2Proof.Machine

def exec (i : Instr) (s : State) : Host.Outcome State Fault Refusal :=
  match i with
  | .powerOn straps => Sys2Proof.Machine.execPowerOn straps s
  | .powerLoss => Sys2Proof.Machine.execPowerLoss s
  | .storeLoadEnd => Sys2Proof.Machine.execStoreLoadEnd s
  | .encoderWaitExpiry => Sys2Proof.Machine.execEncoderWaitExpiry s
  | .storeWriteEnd => Sys2Proof.Machine.execStoreWriteEnd s
  | .trimFold => Sys2Proof.Machine.execTrimFold s
  | .demandInterval rawAz rawEl => Sys2Proof.Machine.execDemandInterval rawAz rawEl s
  | .settleTimeout => Sys2Proof.Machine.execSettleTimeout s
  | .followingTrip => Sys2Proof.Machine.execFollowingTrip s
  | .unparkWaitExpiry => Sys2Proof.Machine.execUnparkWaitExpiry s
  | .indexMark x raw => Sys2Proof.Machine.execIndexMark x raw s
  | .inputRecognition input level => Sys2Proof.Machine.execInputRecognition input level s
  | .windHoldEnd => Sys2Proof.Machine.execWindHoldEnd s
  | .domeTimeout => Sys2Proof.Machine.execDomeTimeout s
  | .dwellComplete => Sys2Proof.Machine.execDwellComplete s
  | .giveUp => Sys2Proof.Machine.execGiveUp s
  | .startInstant => Sys2Proof.Machine.execStartInstant s
  | .planEntryDone => Sys2Proof.Machine.execPlanEntryDone s
  | .restartReinit => Sys2Proof.Machine.execRestartReinit s
  | .replyComplete ln => Sys2Proof.Machine.execReplyComplete ln s
  | .frameGapTimeout ln => Sys2Proof.Machine.execFrameGapTimeout ln s
  | .frameRejected ln => Sys2Proof.Machine.execFrameRejected ln s
  | .frameOtherAddress ln address => Sys2Proof.Machine.execFrameOtherAddress ln address s
  | .messageUnknown a letters fs => Sys2Proof.Machine.execMessageUnknown a letters fs s
  | .time a fs => Sys2Proof.Machine.execTime a fs s
  | .trim a fs => Sys2Proof.Machine.execTrim a fs s
  | .clkq a fs => Sys2Proof.Machine.execClkq a fs s
  | .site a fs => Sys2Proof.Machine.execSite a fs s
  | .mtrm a fs => Sys2Proof.Machine.execMtrm a fs s
  | .mact a fs => Sys2Proof.Machine.execMact a fs s
  | .mqry a fs => Sys2Proof.Machine.execMqry a fs s
  | .goto a fs => Sys2Proof.Machine.execGoto a fs s
  | .stop a fs => Sys2Proof.Machine.execStop a fs s
  | .offs a fs => Sys2Proof.Machine.execOffs a fs s
  | .axcf a fs => Sys2Proof.Machine.execAxcf a fs s
  | .posq a fs => Sys2Proof.Machine.execPosq a fs s
  | .maskRead a fs => Sys2Proof.Machine.execMaskRead a fs s
  | .maskWrite a fs => Sys2Proof.Machine.execMaskWrite a fs s
  | .maskAll a fs => Sys2Proof.Machine.execMaskAll a fs s
  | .zoneRead a fs => Sys2Proof.Machine.execZoneRead a fs s
  | .zoneEnable a fs => Sys2Proof.Machine.execZoneEnable a fs s
  | .zoneBounds a fs => Sys2Proof.Machine.execZoneBounds a fs s
  | .limq a fs => Sys2Proof.Machine.execLimq a fs s
  | .qadd a fs => Sys2Proof.Machine.execQadd a fs s
  | .qdelEntry a fs => Sys2Proof.Machine.execQdelEntry a fs s
  | .qdelGroup a fs => Sys2Proof.Machine.execQdelGroup a fs s
  | .qdelAll a fs => Sys2Proof.Machine.execQdelAll a fs s
  | .qsub a fs => Sys2Proof.Machine.execQsub a fs s
  | .qlst a fs => Sys2Proof.Machine.execQlst a fs s
  | .trapRead a fs => Sys2Proof.Machine.execTrapRead a fs s
  | .trapSet a fs => Sys2Proof.Machine.execTrapSet a fs s
  | .trapOn a fs => Sys2Proof.Machine.execTrapOn a fs s
  | .trapOff a fs => Sys2Proof.Machine.execTrapOff a fs s
  | .trapClear a fs => Sys2Proof.Machine.execTrapClear a fs s
  | .qrun a fs => Sys2Proof.Machine.execQrun a fs s
  | .qhld a fs => Sys2Proof.Machine.execQhld a fs s
  | .qres a fs => Sys2Proof.Machine.execQres a fs s
  | .qskp a fs => Sys2Proof.Machine.execQskp a fs s
  | .plan a fs => Sys2Proof.Machine.execPlan a fs s
  | .guidRead a fs => Sys2Proof.Machine.execGuidRead a fs s
  | .guidCorrection a fs => Sys2Proof.Machine.execGuidCorrection a fs s
  | .gcfg a fs => Sys2Proof.Machine.execGcfg a fs s
  | .incf a fs => Sys2Proof.Machine.execIncf a fs s
  | .inpq a fs => Sys2Proof.Machine.execInpq a fs s
  | .back a fs => Sys2Proof.Machine.execBack a fs s
  | .stow a fs => Sys2Proof.Machine.execStow a fs s
  | .wcfg a fs => Sys2Proof.Machine.execWcfg a fs s
  | .frec a fs => Sys2Proof.Machine.execFrec a fs s
  | .fack a fs => Sys2Proof.Machine.execFack a fs s
  | .alrtRead a fs => Sys2Proof.Machine.execAlrtRead a fs s
  | .alrtMask a fs => Sys2Proof.Machine.execAlrtMask a fs s
  | .alrtUnmask a fs => Sys2Proof.Machine.execAlrtUnmask a fs s
  | .acka a fs => Sys2Proof.Machine.execAcka a fs s
  | .rlog a fs => Sys2Proof.Machine.execRlog a fs s
  | .park a fs => Sys2Proof.Machine.execPark a fs s
  | .unpk a fs => Sys2Proof.Machine.execUnpk a fs s
  | .dorm a fs => Sys2Proof.Machine.execDorm a fs s
  | .wake a fs => Sys2Proof.Machine.execWake a fs s
  | .refr a fs => Sys2Proof.Machine.execRefr a fs s
  | .rset a fs => Sys2Proof.Machine.execRset a fs s
  | .stor a fs => Sys2Proof.Machine.execStor a fs s
  | .storWait a fs => Sys2Proof.Machine.execStorWait a fs s
  | .storRead a fs => Sys2Proof.Machine.execStorRead a fs s
  | .stat a fs => Sys2Proof.Machine.execStat a fs s
  | .last a fs => Sys2Proof.Machine.execLast a fs s
  | .mute a fs => Sys2Proof.Machine.execMute a fs s
  | .unmt a fs => Sys2Proof.Machine.execUnmt a fs s
  | .lockRead a fs => Sys2Proof.Machine.execLockRead a fs s
  | .lockWrite a fs => Sys2Proof.Machine.execLockWrite a fs s
  | .lrst a fs => Sys2Proof.Machine.execLrst a fs s
  | .characterReceived ln ch => Sys2Proof.Machine.execCharacterReceived ln ch s

end Sys2Proof.Machine
end

