-- ==== Sys2Proof/Machine/Tick.lean ====
section
/-! DEFINITION. What happens when no command waits: a runner that has closed an entry goes on to the next head (R112); else the
samples that still fall at the present instant are put in the queue; else one millisecond of time base passes (R1), and the
events that are due at the new instant are put in the queue (log 1, log 11). -/

namespace Sys2Proof.Machine

/-- Commands kept when a condition holds. -/
def dueIf (b : Bool) (c : Instr) : List Instr := if b then [c] else []

/-- Whether `len` ms have run since an optional reading. -/
def Part.ranSince (p : Part) (start : Option Ms) (len : Ms) : Bool := start.any fun b => p.ran b len

/-- Whether an over-threshold run will have lasted its time by this instant's interval. -/
def Part.runNear (p : Part) : Bool :=
  p.ranSince p.engine.az.overSince tripPersistence || p.ranSince p.engine.el.overSince tripPersistence

/-- The latest instant at which a reply's last character leaves: it begins within 5 ms (R184). -/
def Part.replyOver (p : Part) (on : Line) : Bool :=
  match (p.line.get on).reply with
  | some r => p.ran r.since (r.airTime + 6)
  | none => false

/-- The filter samples that fall here, each of the level its wire stands at. -/
def dueSamples (p : Part) : List Instr :=
  (InputName.all.filter fun i => p.sampleDue (p.inputs.get i)).map fun i =>
    .inputRecognition i (p.inputs.get i).wire

/-- The events due at the present instant, in a fixed order; each looks again when it is taken. -/
def dueEvents (p : Part) : List Instr :=
  dueIf p.trimDue .trimFold ++ dueIf (!p.power.loaded && decide (200 ≤ p.now)) .storeLoadEnd
  ++ dueIf p.waitDue .encoderWaitExpiry
  ++ dueIf (p.ranSince (p.power.writing.map Prod.fst) 3000) .storeWriteEnd
  ++ dueSamples p
  ++ dueIf p.intervalDue (.demandInterval p.engine.az.encoder p.engine.el.encoder)
  ++ dueIf p.runNear .followingTrip ++ dueIf p.settleDue .settleTimeout ++ dueIf p.unparkDue .unparkWaitExpiry
  ++ dueIf p.windDue .windHoldEnd ++ dueIf p.domeExpired .domeTimeout ++ dueIf p.dwellDue .dwellComplete
  ++ dueIf p.giveUpDue .giveUp ++ dueIf p.startDue .startInstant
  ++ dueIf (p.ranSince (p.planner.pass.map Pass.began) 20) .planEntryDone
  ++ dueIf p.power.restarting .restartReinit
  ++ dueIf (p.replyOver .a) (.replyComplete .a) ++ dueIf (p.replyOver .b) (.replyComplete .b)
  ++ dueIf (p.gapOver .a) (.frameGapTimeout .a) ++ dueIf (p.gapOver .b) (.frameGapTimeout .b)

/-- One millisecond of time base (R1). -/
def Part.advance (p : Part) : Part := { p with clock := { p.clock with timeBase := p.clock.timeBase + 1 } }

/-- A step with no command waiting. A runner that has closed an entry goes on to the next head, and no time passes (R112
step 4, log 55). Nor does time pass while a sample of the present instant is still to be taken, as at time
base 0, where the filters begin (R135); else a powered part's time base counts. An unpowered part idles (log 1). -/
def tick (s : State) : State :=
  if !s.part.power.powered then s
  else if s.part.goesOn then { s with part := notices (stopBegun goOn s.part) }
  else if (dueSamples s.part).isEmpty then
    { s with part := s.part.advance, pending := s.pending ++ dueEvents s.part.advance }
  else { s with pending := s.pending ++ dueSamples s.part }

end Sys2Proof.Machine
end

