-- ==== Sys2Proof/WellFormed.lean ====
section
/-! DEFINITION. Which commands a line and the outside world can bring: fields that a frame can carry, a frame that fits
its limit, and for the rows that share a message name, the row whose form the fields have. -/

namespace Sys2Proof.WellFormed

open Sys2Proof.Machine

/-- The largest number a field can carry: 15 digits (R181). -/
def numTop : Int := 999999999999999

/-- A word: one or more upper-case letters and `_` (R181). -/
def wordOk (w : String) : Bool := !w.isEmpty && w.toList.all fun c => decide ('A' ≤ c ∧ c ≤ 'Z') || c == '_'

/-- A field that characters can spell (R181). -/
def fieldOk : Field → Bool
  | .num n => within numTop n
  | .word w => wordOk w
  | .bad => true

/-- The fewest characters a field takes. -/
def fieldLength : Field → Nat
  | .num n => (toString n).length
  | .word w => w.length
  | .bad => 0

/-- The characters of a frame from `>` to its last check digit: `>`, address, name, fields, `*`, check (R181). -/
def frameLength (fs : List Field) : Nat := 10 + (fs.map fun f => 1 + fieldLength f).sum

/-- The fields of a frame: each can be spelt, and the frame is complete before its 121st character (R181). -/
def fieldsOk (fs : List Field) : Bool := fs.all fieldOk && decide (frameLength fs ≤ 120)

/-- The first field is a given word. -/
def begins (w : String) (fs : List Field) : Bool := fs.head? == some (.word w)

/-- The second field is a given word. -/
def second (w : String) (fs : List Field) : Bool := fs[1]? == some (.word w)

/-- MASK,ALL (R71). -/
def isMaskAll (fs : List Field) : Bool := fs.length == 2 && begins "ALL" fs

/-- MASK,i,v (R71). -/
def isMaskWrite (fs : List Field) : Bool := fs.length == 2 && !begins "ALL" fs

/-- ZONE,n,ON or OFF (R76). -/
def isZoneEnable (fs : List Field) : Bool := fs.length == 2

/-- ZONE,n with its four bounds (R76). -/
def isZoneBounds (fs : List Field) : Bool := fs.length == 5 || fs.length == 6

/-- TRAP,s,id (R92). -/
def isTrapSet (fs : List Field) : Bool := fs.length == 2 && (fs[1]?.bind Field.asNum).isSome

/-- TRAP with a word (R92). -/
def isTrap (w : String) (fs : List Field) : Bool := fs.length == 2 && second w fs

/-- Four upper-case letters that are not in the message index (R181, R183). -/
def lettersOk (w : String) : Bool :=
  w.length == 4 && w.toList.all (fun c => decide ('A' ≤ c ∧ c ≤ 'Z')) && (msgOf w).isNone

end Sys2Proof.WellFormed

namespace Sys2Proof

open WellFormed

/-- A command that the table's row describes. -/
def Instr.wellFormed : Instr → Bool
  | .powerOn _ => true
  | .powerLoss => true
  | .storeLoadEnd => true
  | .encoderWaitExpiry => true
  | .storeWriteEnd => true
  | .trimFold => true
  | .demandInterval _ _ => true
  | .settleTimeout => true
  | .followingTrip => true
  | .unparkWaitExpiry => true
  | .indexMark _ _ => true
  | .inputRecognition _ _ => true
  | .windHoldEnd => true
  | .domeTimeout => true
  | .dwellComplete => true
  | .giveUp => true
  | .startInstant => true
  | .planEntryDone => true
  | .restartReinit => true
  | .replyComplete _ => true
  | .frameGapTimeout _ => true
  | .frameRejected _ => true
  | .frameOtherAddress _ address => address != 31
  | .messageUnknown _ letters fs => lettersOk letters && fieldsOk fs
  | .time _ fs => fieldsOk fs
  | .trim _ fs => fieldsOk fs
  | .clkq _ fs => fieldsOk fs
  | .site _ fs => fieldsOk fs
  | .mtrm _ fs => fieldsOk fs
  | .mact _ fs => fieldsOk fs
  | .mqry _ fs => fieldsOk fs
  | .goto _ fs => fieldsOk fs
  | .stop _ fs => fieldsOk fs
  | .offs _ fs => fieldsOk fs
  | .axcf _ fs => fieldsOk fs
  | .posq _ fs => fieldsOk fs
  | .maskRead _ fs => fieldsOk fs && !isMaskAll fs && !isMaskWrite fs
  | .maskWrite _ fs => fieldsOk fs && isMaskWrite fs
  | .maskAll _ fs => fieldsOk fs && isMaskAll fs
  | .zoneRead _ fs => fieldsOk fs && !isZoneEnable fs && !isZoneBounds fs
  | .zoneEnable _ fs => fieldsOk fs && isZoneEnable fs
  | .zoneBounds _ fs => fieldsOk fs && isZoneBounds fs
  | .limq _ fs => fieldsOk fs
  | .qadd _ fs => fieldsOk fs
  | .qdelEntry _ fs => fieldsOk fs && !begins "GROUP" fs && !begins "ALL" fs
  | .qdelGroup _ fs => fieldsOk fs && begins "GROUP" fs
  | .qdelAll _ fs => fieldsOk fs && begins "ALL" fs
  | .qsub _ fs => fieldsOk fs
  | .qlst _ fs => fieldsOk fs
  | .trapRead _ fs => fieldsOk fs && !isTrapSet fs && !isTrap "ON" fs && !isTrap "OFF" fs && !isTrap "CLEAR" fs
  | .trapSet _ fs => fieldsOk fs && isTrapSet fs
  | .trapOn _ fs => fieldsOk fs && isTrap "ON" fs
  | .trapOff _ fs => fieldsOk fs && isTrap "OFF" fs
  | .trapClear _ fs => fieldsOk fs && isTrap "CLEAR" fs
  | .qrun _ fs => fieldsOk fs
  | .qhld _ fs => fieldsOk fs
  | .qres _ fs => fieldsOk fs
  | .qskp _ fs => fieldsOk fs
  | .plan _ fs => fieldsOk fs
  | .guidRead _ fs => fieldsOk fs && fs.length != 2
  | .guidCorrection _ fs => fieldsOk fs && fs.length == 2
  | .gcfg _ fs => fieldsOk fs
  | .incf _ fs => fieldsOk fs
  | .inpq _ fs => fieldsOk fs
  | .back _ fs => fieldsOk fs
  | .stow _ fs => fieldsOk fs
  | .wcfg _ fs => fieldsOk fs
  | .frec _ fs => fieldsOk fs
  | .fack _ fs => fieldsOk fs
  | .alrtRead _ fs => fieldsOk fs && fs != [.word "MASK"] && fs != [.word "UNMASK"]
  | .alrtMask _ fs => fieldsOk fs && fs == [.word "MASK"]
  | .alrtUnmask _ fs => fieldsOk fs && fs == [.word "UNMASK"]
  | .acka _ fs => fieldsOk fs
  | .rlog _ fs => fieldsOk fs
  | .park _ fs => fieldsOk fs
  | .unpk _ fs => fieldsOk fs
  | .dorm _ fs => fieldsOk fs
  | .wake _ fs => fieldsOk fs
  | .refr _ fs => fieldsOk fs
  | .rset _ fs => fieldsOk fs
  | .stor _ fs => fieldsOk fs && !begins "WAIT" fs && !begins "READ" fs
  | .storWait _ fs => fieldsOk fs && begins "WAIT" fs
  | .storRead _ fs => fieldsOk fs && begins "READ" fs
  | .stat _ fs => fieldsOk fs
  | .last _ fs => fieldsOk fs
  | .mute _ fs => fieldsOk fs
  | .unmt _ fs => fieldsOk fs
  | .lockRead _ fs => fieldsOk fs && fs.length != 3
  | .lockWrite _ fs => fieldsOk fs && fs.length == 3
  | .lrst _ fs => fieldsOk fs
  | .characterReceived _ _ => true

end Sys2Proof
end

