-- ==== Sys2Proof/Safety.lean ====
section
/-! DEFINITION. What counts as a safe run, in the terms the statements use: a step that goes on, a line that hears and
answers, and the properties of a part that the manual says always hold. -/

namespace Sys2Proof

/-- A step that answers a next state. -/
def Goes (s : Machine.State) : Prop := ∃ t, Machine.step s = .next t

end Sys2Proof

namespace Sys2Proof.Machine

/-! ### Hearing and answering a message (R181 to R186) -/

/-- The arrival of a frame that carries the part's own address. -/
def ownFrame (ln : Line) : Arrival := { line := ln, cast := .addressed }

/-- The part is powered and takes a frame that completes on `ln`: its store load has ended, it sends no reply there, and
no restart is in progress (R169, R175, R181). -/
def Hears (p : Part) (ln : Line) : Prop :=
  p.power.powered = true ∧ p.power.loaded = true ∧ p.power.restarting = false ∧ (p.line.get ln).reply = none

/-- A frame of name `m` with the part's own address is handed to its owner and answered: the line hears, is not muted,
the name is not locked there, and the part is not listen-only (R182, R183, R184). -/
def Answers (p : Part) (ln : Line) (m : MsgName) : Prop :=
  Hears p ln ∧ p.line.address ≠ 31 ∧ p.line.isLocked ln m = false ∧ (p.line.get ln).muted = false

/-- What the completion of a frame does before its message is taken: its own buffer is empty and the reply in progress
on the other line is cut off (R181, R185). -/
def Part.heard (ln : Line) (p : Part) : Part := cutReply (Line.other ln) (emptyBuffer ln p)

/-- The flags and the last-message record an addressed message leaves (R183). -/
def Part.flagged (ln : Line) (m : MsgName) (r : Result) (p : Part) : Part :=
  { p with line := { p.line with
      msgErr := r.isErr, bcast := false,
      last := some { name := .known m, line := ln, cast := .addressed, result := r } } }

/-- A reply put on a line, its summary formed from the part as it stands (R184, R186). That the reply begins in the step that
takes its message, and its summary is formed then, is the model's choice (log 36). -/
def Part.replied (ln : Line) (m : MsgName) (r : Result) (fields : List RField) (p : Part) : Part :=
  let reply : Reply :=
    { address := p.line.address, name := .known m, result := r, summary := summary p ln, fields := fields,
      since := p.now }
  { p with line := p.line.set ln { p.line.get ln with reply := some reply } }

/-- The end of every answered message but STAT, LAST and a taken LRST (R183, R184). -/
def Part.answered (ln : Line) (m : MsgName) (r : Result) (fields : List RField) (p : Part) : Part :=
  (p.flagged ln m r).replied ln m r fields

/-- The reply in progress on a line is this message's, with this outcome and these fields (R184), and it began at this
instant (the model's choice, log 36). -/
def Replies (p : Part) (ln : Line) (m : MsgName) (r : Result) (fields : List RField) : Prop :=
  ∃ reply, (p.line.get ln).reply = some reply ∧ reply.address = p.line.address ∧ reply.name = .known m ∧
    reply.result = r ∧ reply.fields = fields ∧ reply.since = p.now

/-- The name, the arrival and the fields of a command that is a message; none for an event. -/
def frameOf : Instr → Option (Name × Arrival × List Field)
  | .powerOn _ | .powerLoss | .storeLoadEnd | .encoderWaitExpiry | .storeWriteEnd | .trimFold | .demandInterval ..
  | .settleTimeout | .followingTrip | .unparkWaitExpiry | .indexMark .. | .inputRecognition .. | .windHoldEnd
  | .domeTimeout | .dwellComplete | .giveUp | .startInstant | .planEntryDone | .restartReinit | .replyComplete _
  | .frameGapTimeout _ | .frameRejected _ | .frameOtherAddress .. | .characterReceived .. => none
  | .messageUnknown a w fs => some (.unknown w, a, fs)
  | .time a fs => some (.known .time, a, fs)
  | .trim a fs => some (.known .trim, a, fs)
  | .clkq a fs => some (.known .clkq, a, fs)
  | .site a fs => some (.known .site, a, fs)
  | .mtrm a fs => some (.known .mtrm, a, fs)
  | .mact a fs => some (.known .mact, a, fs)
  | .mqry a fs => some (.known .mqry, a, fs)
  | .goto a fs => some (.known .goto, a, fs)
  | .stop a fs => some (.known .stop, a, fs)
  | .offs a fs => some (.known .offs, a, fs)
  | .axcf a fs => some (.known .axcf, a, fs)
  | .posq a fs => some (.known .posq, a, fs)
  | .maskRead a fs | .maskWrite a fs | .maskAll a fs => some (.known .mask, a, fs)
  | .zoneRead a fs | .zoneEnable a fs | .zoneBounds a fs => some (.known .zone, a, fs)
  | .limq a fs => some (.known .limq, a, fs)
  | .qadd a fs => some (.known .qadd, a, fs)
  | .qdelEntry a fs | .qdelGroup a fs | .qdelAll a fs => some (.known .qdel, a, fs)
  | .qsub a fs => some (.known .qsub, a, fs)
  | .qlst a fs => some (.known .qlst, a, fs)
  | .trapRead a fs | .trapSet a fs | .trapOn a fs | .trapOff a fs | .trapClear a fs => some (.known .trap, a, fs)
  | .qrun a fs => some (.known .qrun, a, fs)
  | .qhld a fs => some (.known .qhld, a, fs)
  | .qres a fs => some (.known .qres, a, fs)
  | .qskp a fs => some (.known .qskp, a, fs)
  | .plan a fs => some (.known .plan, a, fs)
  | .guidRead a fs | .guidCorrection a fs => some (.known .guid, a, fs)
  | .gcfg a fs => some (.known .gcfg, a, fs)
  | .incf a fs => some (.known .incf, a, fs)
  | .inpq a fs => some (.known .inpq, a, fs)
  | .back a fs => some (.known .back, a, fs)
  | .stow a fs => some (.known .stow, a, fs)
  | .wcfg a fs => some (.known .wcfg, a, fs)
  | .frec a fs => some (.known .frec, a, fs)
  | .fack a fs => some (.known .fack, a, fs)
  | .alrtRead a fs | .alrtMask a fs | .alrtUnmask a fs => some (.known .alrt, a, fs)
  | .acka a fs => some (.known .acka, a, fs)
  | .rlog a fs => some (.known .rlog, a, fs)
  | .park a fs => some (.known .park, a, fs)
  | .unpk a fs => some (.known .unpk, a, fs)
  | .dorm a fs => some (.known .dorm, a, fs)
  | .wake a fs => some (.known .wake, a, fs)
  | .refr a fs => some (.known .refr, a, fs)
  | .rset a fs => some (.known .rset, a, fs)
  | .stor a fs | .storWait a fs | .storRead a fs => some (.known .stor, a, fs)
  | .stat a fs => some (.known .stat, a, fs)
  | .last a fs => some (.known .last, a, fs)
  | .mute a fs => some (.known .mute, a, fs)
  | .unmt a fs => some (.known .unmt, a, fs)
  | .lockRead a fs | .lockWrite a fs => some (.known .lock, a, fs)
  | .lrst a fs => some (.known .lrst, a, fs)

/-! ### What always holds -/

/-- What the Guide Unit was told, whether guiding is allowed and whether dwell is being counted agree with the engine, the
configuration and the runner (R34, R111, R125). -/
def Part.Noticed (p : Part) : Prop :=
  p.guide.told = p.guidingCondition ∧ p.guide.allowed = (p.guidingCondition && p.guide.enable) ∧
  p.runner.ctx.countFrom.isSome = p.dwellCounts

/-- The line takes and answers a frame of name `m`, and the notices of the part agree with its state. -/
def Takes (s : State) (ln : Line) (m : MsgName) : Prop := Answers s.part ln m ∧ s.part.Noticed

/-- The command answers a next state: the part is `q`, then the flags, the last-message record and the reply with this
outcome and these fields; the queue is as it was. The reply begins in the step that takes its message, and its summary is
formed then: that is the model's choice (log 36), on which every statement in this form rests. -/
def Gives (c : Instr) (s : State) (ln : Line) (m : MsgName) (r : Result) (out : List RField) (q : Part) : Prop :=
  exec c s = .next { s with part := q.answered ln m r out }

/-- The runner has a head to take up when the Night List tells it of a change: any head in EMPTY, and in WAITING and INTERCEPT
one that is not the entry of its visit, or none at all (R102). -/
def Part.findsHead (p : Part) : Bool :=
  match p.runner.state with
  | .empty => !p.list.entries.isEmpty
  | .waiting | .intercept => p.head.map Entry.id != p.runner.ctx.id
  | _ => false

/-- `p` with the runner's visit ended and the next head to be taken up, so that a step on the empty queue does it (R101,
log 55). -/
def Part.takingUp (p : Part) : State :=
  { part := { p with runner := { p.runner with state := .empty, ctx := { RunCtx.blank with goingOn := true } } }
    pending := [] }

/-- `Gives` for a message that changes the list to that of `q`: the runner is told of it then, and where that gives it a head
to take up, the part is what the step that takes up a head leaves (R82, R86, R101, R102). -/
def GivesList (c : Instr) (s : State) (ln : Line) (m : MsgName) (r : Result) (out : List RField) (q : Part) : Prop :=
  (q.findsHead = false → Gives c s ln m r out q) ∧
  (q.findsHead = true → q.runner.holdAfter = false →
    ∃ w, step q.takingUp = .next { part := w, pending := [] } ∧ Gives c s ln m r out w)

/-- The runner starts running from `p` (R98, R119): hold-after-current is cleared, nothing waits to be resumed, and the head is
to be taken up. -/
def Part.startingUp (p : Part) : State :=
  { p with runner := { p.runner with holdAfter := false, windResume := false } }.takingUp

/-- `p` with its wind hold over, at the Wind Logic and the Motion Engine (R152): a STOWED engine is READY, and a STOWING one is
STOPPING, or READY at once when nothing moves (log 67), with a pending activation made, which asks the Planner for a
pass (R24, R25); any other stays as it is. -/
def Part.holdOver (p : Part) : Part :=
  let e := p.engine
  let q := { p with wind := { p.wind with hold := false, timer := none } }
  if e.motion = .stowed ∨ e.motion = .stowing then
    let still := e.motion = .stowed ∨ e.az.velocity = 0 ∧ e.el.velocity = 0
    let rested : Part := { q with engine := { e with
      motion := if still then .ready else .stopping, target := none, passage := none, request := none,
      arrivedAt := none, unparkAt := if still then none else e.unparkAt, halting := false,
      az := { e.az with captured := false, profile := none }, el := { e.el with captured := false, profile := none } } }
    if p.model.pending then requestPass { rested with model := p.model.activate } else rested
  else q

/-- The end of a wind hold makes the runner resume (R98, R119): a hold has made it HELD, reason WIND, and nothing has changed
that since, auto-resume is ON, and no check of R98 refuses. -/
def Part.resumes (p : Part) : Prop :=
  p.runner.state = .held .wind ∧ p.runner.windResume = true ∧ p.wind.autoResume = true ∧ p.clock.isSet = true ∧
  p.engine.motion ∉ [.unreferenced, .waking, .referencing, .dormant, .parking] ∧ p.countsTripped = false

/-- `Gives` for a message within which a wind hold ends, `q` being the part when the runner is told of it (R152): it stays as
it is, or it resumes and takes up the head, as the step that takes up a head does (R101, R119). -/
def GivesReleased (c : Instr) (s : State) (ln : Line) (m : MsgName) (r : Result) (out : List RField) (q : Part) : Prop :=
  (¬q.resumes → Gives c s ln m r out q) ∧
  (q.resumes → ∃ w, step q.startingUp = .next { part := w, pending := [] } ∧ Gives c s ln m r out w)

/-- From `p` to `q` the worked entry `id` has closed with an outcome (R112, steps 1 to 3): its record `n`, if it was open,
has its dwell, its end and the outcome, every other record is as it was, and the entry has left the list with the current
marker that named it. -/
def Part.Closed (p q : Part) (n id : Nat) (o : Ending) : Prop :=
  (∀ r, p.log.find n = some r → r.isOpen = true →
    q.log.find n = some { r with dwell := p.dwellSoFar, ended := some p.stamp, outcome := some o }) ∧
  (∀ k, k ≠ n → q.log.find k = p.log.find k) ∧ q.log.next = p.log.next ∧
  q.list.entries.map Entry.id = (p.list.entries.map Entry.id).filter (fun k => k != id) ∧
  q.list.current = (if p.list.current = some id then none else p.list.current) ∧
  q.list.slots = p.list.slots ∧ q.list.draft = p.list.draft

/-- `p` with the keyhole time of a passage in progress added to the record `n` (R66). -/
def Part.keyholeAdded (p : Part) (n : Nat) : Part :=
  match p.engine.passage with
  | some k => { p with log := p.log.change n fun r => { r with keyholeMs := r.keyholeMs + (p.clock.timeBase - k.entered) } }
  | none => p

/-- The model after a boundary (R24, R25): a pending activation has been made. -/
def Part.boundaryModel (p : Part) : Model := if p.model.pending then p.model.activate else p.model

/-- Both demand velocities are 0. -/
def Part.still (p : Part) : Prop := p.engine.az.velocity = 0 ∧ p.engine.el.velocity = 0

/-- From `p` to `q` the engine has been brought out of what it did towards rest, by STOPPING, or READY at once when nothing moves
(R37; outside the steps spec/95 names, log 67): it has no target, no passage and no request, the demands and the velocities are
as they were, and a pending activation has been made (R24). -/
def Part.StoppedFrom (p q : Part) : Prop :=
  (p.still → q.engine.motion = .ready) ∧ (¬p.still → q.engine.motion = .stopping) ∧
  q.engine.target = none ∧ q.engine.passage = none ∧ q.engine.request = none ∧
  q.engine.az.demand = p.engine.az.demand ∧ q.engine.az.velocity = p.engine.az.velocity ∧
  q.engine.el.demand = p.engine.el.demand ∧ q.engine.el.velocity = p.engine.el.velocity ∧
  q.engine.cfg = p.engine.cfg ∧ q.model = p.boundaryModel

/-- The runner that works nothing, or a PARK entry, when a wind hold starts (R119): a running one is HELD, reason WIND, to be
resumed; one that is IDLE or HELD, or works a PARK entry, stays. -/
def Part.heldByWind (p : Part) : Runner :=
  if !p.runner.state.running || p.parkCurrent then p.runner
  else { p.runner with state := .held .wind, holdAfter := false, windResume := true, ctx := RunCtx.blank }

/-- From `p` to `q` the worked entry `id` has closed STOWED with its record `n`, and the runner is HELD, reason WIND, to be
resumed (R119). -/
def Part.EntryStowed (p q : Part) (n id : Nat) : Prop :=
  p.Closed q n id .stowed ∧ q.runner.state = .held .wind ∧ q.runner.windResume = true ∧ q.runner.ctx = RunCtx.blank

/-- From `p` to `q` the start of a wind hold has taken the engine out of READY or from its target (R24, R45, R66, R119, R151): the
Wind Logic is now `wind`, the cause WIND is set, the engine is in `motion` with no target, at the demands and velocities it
had, and a pending activation has been made. A GOTO's record has closed STOWED with its keyhole time; the runner has closed a
worked entry STOWED, or stands as `heldByWind` says. -/
def Part.HoldTaken (p q : Part) (wind : Wind) (motion : Motion) : Prop :=
  let e := p.engine
  q.wind = wind ∧ q.alerts = { p.alerts with wind := true } ∧ q.engine.motion = motion ∧ q.engine.target = none ∧
  q.engine.passage = none ∧ q.engine.request = none ∧
  q.engine.az.demand = e.az.demand ∧ q.engine.az.velocity = e.az.velocity ∧
  q.engine.el.demand = e.el.demand ∧ q.engine.el.velocity = e.el.velocity ∧ q.engine.cfg = e.cfg ∧
  q.model = p.boundaryModel ∧
  q.faults = p.faults ∧ q.inputs = p.inputs ∧ q.limits = p.limits ∧ q.power = p.power ∧ q.clock = p.clock ∧
  (p.runner.state.working = false →
    q.runner = p.heldByWind ∧
    q.list.entries.map Entry.id = p.list.entries.map Entry.id ∧
    q.list.current = p.list.current ∧ q.log.next = p.log.next ∧
    (e.target = none → e.passage = none → q.log = p.log) ∧
    ∀ t n, e.target = some t → t.given.origin = .goto → t.given.record = some n →
      (∀ k, k ≠ n → q.log.find k = p.log.find k) ∧
      ∀ x, (p.keyholeAdded n).log.find n = some x → x.isOpen = true →
        q.log.find n = some { x with ended := some p.stamp, outcome := some .stowed }) ∧
  (∀ t n id, p.runner.state.working = true → p.parkCurrent = false → p.runner.ctx.id = some id →
    p.runner.ctx.record = some n → e.target = some t → t.given.origin = .list id → t.given.record = some n →
    (p.keyholeAdded n).EntryStowed q n id)

/-- The runner has gone on from `p` to `q` after a close (R112 step 4): HELD, reason HOST, when
hold-after-current was set; else EMPTY with the next head yet to be taken up by the next step (log 55). The run context
holds nothing but that. -/
def Part.WentOn (p q : Part) : Prop :=
  q.runner.state = (if p.runner.holdAfter then .held .host else .empty) ∧
  q.runner.ctx = { RunCtx.blank with goingOn := !p.runner.holdAfter } ∧ q.runner.holdAfter = false

/-- Where the runner stands, with its run context and the alert causes, when it goes on at once after the entry `id` has left
the list (R91, R101, R112 step 4): HELD, reason HOST, when hold-after-current was set; else EMPTY,
with the cause LIST_END, when the list is empty, and INTERCEPT, with its cause, before a head whose id an enabled slot holds.
None for another head, which is then decided. -/
def Part.goneOnTo (p : Part) (id : Nat) : Option (RunState × RunCtx × Alerts) :=
  if p.runner.holdAfter then some (.held .host, RunCtx.blank, p.alerts)
  else match p.list.entries.filter fun e => e.id != id with
    | [] => some (.empty, RunCtx.blank, { p.alerts with listEnd := true })
    | e :: _ =>
      if p.list.trapped e.id then
        some (.intercept, { RunCtx.blank with id := some e.id, fired := true }, { p.alerts with intercept := true })
      else none

/-- From `p` to `q` the entry `e` has left the list unworked, with a record created and closed at once, and the runner has
gone on to `w` (R103, R108). -/
def Part.Skipped (p q : Part) (e : Entry) (o : Ending) (w : RunState × RunCtx × Alerts) : Prop :=
  q.runner.state = w.1 ∧ q.runner.ctx = w.2.1 ∧ q.runner.holdAfter = false ∧ q.alerts = w.2.2 ∧
  q.list.entries.map Entry.id = (p.list.entries.map Entry.id).filter (fun k => k != e.id) ∧
  q.log.next = p.log.next + 1 ∧
  q.log.find p.log.next = some { RunRec.fresh p.log.next (.list e.id) e.body.kind with
    ended := some p.stamp, outcome := some o } ∧
  q.engine = p.engine ∧ q.faults = p.faults ∧ q.power = p.power ∧ q.clock = p.clock ∧ q.line = p.line

/-- From `p` to `q` the entry `e` has become the worked one (R109): it is current, the runner is ACQUIRING, and the record `r`
of it stands at the next sequence number. -/
def Part.Opened (p q : Part) (e : Entry) (r : RunRec) : Prop :=
  q.runner.state = .acquiring ∧ q.runner.ctx.record = some p.log.next ∧ q.runner.ctx.id = some e.id ∧
  q.runner.ctx.accum = 0 ∧ q.list.current = some e.id ∧
  q.list.entries.map Entry.id = p.list.entries.map Entry.id ∧
  q.log.next = p.log.next + 1 ∧ q.log.find p.log.next = some r ∧
  q.faults = p.faults ∧ q.power = p.power ∧ q.clock = p.clock ∧ q.line = p.line

/-- What the runner hands the engine for an entry with the target `c`, the estimate `est` and the record `n` (R109). -/
def Entry.handed (e : Entry) (c : Coords) (est : Ms) (n : Nat) : Assignment :=
  { origin := .list e.id, coords := c, pref := e.opts.wrap.getD .near, guide := e.opts.guide, dwell := some e.body.dwell,
    estimate := some est, minAlt := e.opts.minAlt, record := some n }

/-- An open record of the entry that `p` opens, with a slew start at this instant to the side `side` (R61, R165). -/
def Part.startedRecord (p : Part) (e : Entry) (side : Side) : RunRec :=
  { RunRec.fresh p.log.next (.list e.id) e.body.kind with
    started := some p.stamp, side := some side, generation := some p.model.generation }

/-- From `p` to `q` the engine has taken the entry's target `t` in SLEWING (R31, R44), from the demands it had. -/
def Part.HeadsFor (p q : Part) (t : Target) (g : Assignment) : Prop :=
  q.engine.motion = .slewing ∧ q.engine.target = some t ∧ t.given = g ∧ t.arrived = false ∧ t.reached = false ∧
  t.noRun = false ∧ q.engine.az.demand = p.engine.az.demand ∧ q.engine.el.demand = p.engine.el.demand

/-- From `p` to `q` work has begun on the entry `e` with the target `c` and the slew time estimate `est`: the entry is
current, an open record of it stands at the next sequence number with its start, the runner is ACQUIRING, and the engine
slews from its demands to the entry's target with no offsets (R31, R109). -/
def Part.Begun (p q : Part) (e : Entry) (c : Coords) (est : Ms) : Prop :=
  ∃ t : Target, p.Opened q e (p.startedRecord e t.side) ∧ p.HeadsFor q t (e.handed c est p.log.next) ∧
    q.engine.offArc = 0 ∧ q.engine.offEl = 0 ∧ q.guide.accA = 0 ∧ q.guide.accE = 0

/-- Work has begun on the entry `e` by a redirect of the slew in progress (R44, R109): the target, its record and the runner as at
a slew start; each axis keeps its demand, its velocity and its profile, captured or not before, and the offsets are untouched
(the profile carried on: log 18). -/
def Part.Redirected (p q : Part) (e : Entry) (c : Coords) (est : Ms) : Prop :=
  ∃ t : Target, p.Opened q e (p.startedRecord e t.side) ∧ p.HeadsFor q t (e.handed c est p.log.next) ∧
    q.engine.az = { p.engine.az with captured := false } ∧ q.engine.el = { p.engine.el with captured := false } ∧
    q.engine.offArc = p.engine.offArc ∧ q.engine.offEl = p.engine.offEl ∧ q.engine.passage = none

/-- A demand interval falls here that has not been taken, both axes are referenced with their encoders on, and WRAPSIDE
agrees with the azimuth reading (R29, R143). -/
def Part.Reads (p : Part) (rawAz : Int) : Prop :=
  p.power.powered = true ∧ p.intervalDue = true ∧ p.engine.encodersOn = true ∧ p.engine.az.referenced = true ∧
  p.engine.el.referenced = true ∧ wrapDisagrees (p.active .wrapSide) (rawAz + p.engine.az.zero) = false

/-- One axis over one interval of a slew, from `x` to `y`, the profile run toward `o`, the destination now `d`, the soft
limits `[lo, hi]`: captured already, or by a profile demand within the tolerance of `d` or at or past it, it stands at `d`
and follows it; else it stands where the profile has brought it, or at the limit it passed, at rest (R30, R32, R33; the velocity
of the capturing interval: log 61). -/
def AxisState.Slews (x y : AxisState) (a v tol : Int) (o d lo hi : Mas) : Prop :=
  let z := x.advance a v o
  let meets := (-tol ≤ d - z.demand ∧ d - z.demand ≤ tol) ∨ (x.demand ≤ d ∧ d ≤ z.demand) ∨
    (z.demand ≤ d ∧ d ≤ x.demand)
  (x.captured = true ∨ meets → y.captured = true ∧ y.demand = d ∧ y.velocity = (d - x.demand) * 100 * fx) ∧
  (x.captured = false → ¬meets → y.captured = false ∧
    (z.demand < lo → y.demand = lo ∧ y.velocity = 0) ∧ (hi < z.demand → y.demand = hi ∧ y.velocity = 0) ∧
    (lo ≤ z.demand → z.demand ≤ hi → y.demand = z.demand ∧ y.velocity = z.velocity ∧ y.profile = z.profile))

/-- A velocity brought toward `goal` by one interval's acceleration (R37, R145, R147). -/
def broughtTo (a u goal : Int) : Int :=
  let most := a * (fx / 100)
  if u + most < goal then u + most else if goal < u - most then u - most else goal

/-- One axis over one interval of coming to rest at full deceleration, from `x` to `y`, within the soft limits `[lo, hi]`
(R30, R37). -/
def AxisState.Eases (x y : AxisState) (a : Int) (lo hi : Mas) : Prop :=
  let z := x.drive a 0
  (z.demand < lo → y.demand = lo ∧ y.velocity = 0) ∧ (hi < z.demand → y.demand = hi ∧ y.velocity = 0) ∧
  (lo ≤ z.demand → z.demand ≤ hi → y.demand = z.demand ∧ y.velocity = broughtTo a x.velocity 0)

/-- The blocks that an interval which only moves the axes leaves as they were. -/
def Part.OnlyMoves (p q : Part) : Prop :=
  q.faults = p.faults ∧ q.log = p.log ∧ q.list = p.list ∧ q.runner = p.runner ∧ q.guide = p.guide ∧ q.inputs = p.inputs ∧
  q.wind = p.wind ∧ q.alerts = p.alerts ∧ q.model = p.model ∧ q.limits = p.limits ∧ q.power = p.power ∧ q.clock = p.clock ∧
  q.line = p.line

/-- The level of an input's wire that its polarity reads as ACTIVE (`true`) or INACTIVE (R135). -/
def Part.levelOf (p : Part) (i : InputName) (active : Bool) : Level :=
  if active then (p.inputs.get i).cfg.polarity else Level.inactive (p.inputs.get i).cfg.polarity

/-- An enabled input takes a sample here that recognises it ACTIVE (`true`) or INACTIVE: with filter code 0 any such sample,
with a code of 1 to 7 the second in a row (R136). -/
def Part.Recognises (p : Part) (i : InputName) (active : Bool) : Prop :=
  let f := p.inputs.get i
  p.power.powered = true ∧ f.enabled = true ∧ p.clock.timeBase % verifyTime f.cfg.code = 0 ∧
  f.sampledAt ≠ some p.clock.timeBase ∧ (f.cfg.code = 0 ∨ f.last = some active) ∧ f.recognised = some (!active)

/-- The inputs after that sample. -/
def Part.recognised (p : Part) (i : InputName) (active : Bool) : PerInput Filter :=
  p.inputs.set i { p.inputs.get i with
    wire := p.levelOf i active, last := some active, recognised := some active, sampledAt := some p.clock.timeBase }

/-- Whether the engine's target is the worked entry's, and has reached TRACKING (R110). -/
def Part.trackedOnce (p : Part) : Bool := p.onEntry && p.engine.target.any Target.reached

/-- The Fault Table (R154, R155): eight places, a creation order that names each valid one once, counts of 1 to 255,
severities fixed by the reason, and no two valid records of one source and reason. -/
def FaultTable.Ok (ft : FaultTable) : Prop :=
  ft.recs.length = 8 ∧ ft.order.Nodup ∧ (∀ i, i ∈ ft.order ↔ (ft.at_i i).isSome = true) ∧
  (∀ i r, ft.at_i i = some r → 1 ≤ r.count ∧ r.count ≤ 255 ∧ r.severity = r.reason.severity) ∧
  (∀ i j r q, ft.at_i i = some r → ft.at_i j = some q → r.source = q.source → r.reason = q.reason → i = j)

/-- A run record (R166): closed records have an ended time and an outcome, superseded ones neither. -/
def RunRec.Ok (r : RunRec) : Prop :=
  r.ended.isSome = r.outcome.isSome ∧ (r.supersededBy.isSome = true → r.ended.isNone = true)

/-- The Run Log (R164): sequence numbers rise along the ring, start at 1, and lie below the next one. -/
def RunLog.Ok (l : RunLog) : Prop :=
  1 ≤ l.next ∧ l.records.Pairwise (fun a b => a.seq < b.seq) ∧
  (∀ r ∈ l.records, 1 ≤ r.seq ∧ r.seq < l.next ∧ r.Ok)

/-- The ring of the Run Log and the records still open (R45, R97, R164): at most 64 records, at most one of them open; an
open GOTO record is that of the target the engine follows, with no entry being worked, or waits for the end of a restart;
an open list record is that of the entry being worked. -/
def Part.RecordsOk (p : Part) : Prop :=
  p.log.records.length ≤ 64 ∧ (p.log.records.filter RunRec.isOpen).length ≤ 1 ∧
  ∀ r ∈ p.log.records, r.isOpen = true → match r.origin with
    | .goto => p.runner.state.working = false ∧ (p.power.restarting = true ∨
        ∃ t, p.engine.target = some t ∧ t.given.origin = .goto ∧ t.given.record = some r.seq)
    | .list _ => p.runner.state.working = true ∧ p.runner.ctx.record = some r.seq

/-- What a log keeps of an earlier one (R164, R166): numbers only rise, an older record is one the earlier log had, and
a record once closed or superseded stays as it ended. -/
def RunLog.Continues (l l' : RunLog) : Prop :=
  l.next ≤ l'.next ∧ ∀ r' ∈ l'.records, r'.seq < l.next → ∃ r ∈ l.records, r.seq = r'.seq ∧
    (r.isOpen = false → r'.ended = r.ended ∧ r'.outcome = r.outcome ∧ r'.supersededBy = r.supersededBy)

/-- An intercept slot (R91): an empty one is disabled. -/
def Slot.Ok (s : Slot) : Prop := (s.on = true → s.id.isSome = true) ∧ ∀ n, s.id = some n → 1 ≤ n ∧ n ≤ 65535

/-- The Night List (R78, R91): at most 96 entries of distinct ids 1 to 65,535, four slots of distinct ids, and a draft of
an id in range. -/
def NightList.Ok (l : NightList) : Prop :=
  l.entries.length ≤ 96 ∧ (l.entries.map Entry.id).Nodup ∧ (∀ e ∈ l.entries, 1 ≤ e.id ∧ e.id ≤ 65535) ∧
  l.slots.length = 4 ∧ (∀ s ∈ l.slots, s.Ok) ∧ (l.slots.filterMap Slot.id).Nodup ∧
  (∀ d, l.draft = some d → 1 ≤ d.id ∧ d.id ≤ 65535)

/-- The Guide Unit (R124, R131): offsets within ±60,000 and counters of 16 bits. -/
def Guide.Ok (g : Guide) : Prop :=
  within guideBound g.accA = true ∧ within guideBound g.accE = true ∧
  g.applied ≤ 65535 ∧ g.superseded ≤ 65535 ∧ g.clipped ≤ 65535

/-- The motion states in which no slew, track, passage, stow, park, reference run or unpark is in progress (R49). -/
def Motion.stilled : Motion → Bool
  | .tripped | .parked | .dormant | .backout | .unreferenced | .waking => true
  | _ => false

/-- ESTOP is recognised ACTIVE or a valid TRIP-severity record exists (R49). -/
def Part.tripOn (p : Part) : Bool := p.faults.hasTrip || p.active .estop

/-- The Motion Engine has a target exactly in the states that head for or follow one (R27), and nothing is in progress
while a trip is on (R49). -/
def Part.EngineOk (p : Part) : Prop :=
  p.engine.target.isSome = p.engine.motion.following ∧ (p.tripOn = true → p.engine.motion.stilled = true)

/-- While a restart is in progress nothing moves but what is being brought to rest (R54, R175 step 2). -/
def Part.RestartOk (p : Part) : Prop := p.power.restarting = true → p.engine.underWay = false

/-- The axis configuration (R50): every setting in its range, the limits in order, the park azimuth and the stow elevation
within them. -/
def AxisCfg.Ok (c : AxisCfg) : Prop :=
  (∀ s ∈ axisSettings, between s.lo s.hi (s.read c) = true) ∧ c.azLo < c.azHi ∧ c.elLo < c.elHi ∧
  azInside c c.parkAz = true ∧ elInside c c.stowEl = true

/-- A keep-out zone (R68). -/
def Zone.Ok (z : Zone) : Prop := boundsHold z.azMin z.azMax z.elMin z.elMax = true

/-- The mask and the zone table (R68). -/
def Limits.Ok (l : Limits) : Prop :=
  l.mask.length = 36 ∧ (∀ m ∈ l.mask, between 0 maskTop m = true) ∧ l.zones.length = 8 ∧ ∀ z ∈ l.zones, z.Ok

/-- Seven model terms (R22). -/
def Terms.Ok (t : Terms) : Prop :=
  ∀ v ∈ [t.ia, t.ie, t.ca, t.np, t.an, t.ae, t.tf], within 3600000 v = true

/-- The configuration items of the store in their ranges (R9, R22, R50, R68, R96, R124, R135, R149, R168, R176). -/
def StoreImage.Ok (im : StoreImage) : Prop :=
  within cap89 im.site.latitude = true ∧ between 0 70000 im.site.refraction = true ∧ im.cfg.Ok ∧ im.limits.Ok ∧
  (∀ i, (im.inputs.get i).code ≤ 7) ∧ im.release ≤ 3600000 ∧ im.domeWait ≤ 600000 ∧
  between 500 60000 im.guideRate = true ∧ between 100 60000 im.guideStep = true ∧ im.terms.Ok ∧ im.waitCode ≤ 3

/-- The configuration in force, the stored one, the one being written, and the staged terms are in their ranges; the ten
inputs that are always enabled are (R135). -/
def Part.ConfigOk (p : Part) : Prop :=
  (snapshot p).Ok ∧ p.power.store.Ok ∧ (∀ w, p.power.writing = some w → w.2.Ok) ∧ p.model.staged.Ok ∧
  ∀ i, switchable i = false → (p.inputs.get i).enabled = true

end Sys2Proof.Machine
end

