-- ==== Sys2Proof/Certificates/Slice0/Obligations.lean ====
section
/-! DEFINITION. The statements for the provers. Each says in its docstring which rules of spec/ it rests on and, where it
rests on a choice of the model, which log entry. `Gives` (Safety.lean) is `exec c s = .next …` with the next state written
out: the part after the command's effect, then the flags, the last-message record and the reply of R183 and R184. `Takes`
says that the line hears and answers the message. -/

open Sys2Proof Sys2Proof.Machine

/-! ### Steps, reset and power (11) -/

/-- A step takes the command at the front of the queue and runs it with the queue's rest. -/
def Obligations.StepTakesFront : Prop :=
  ∀ (c : Instr) (s : State), step { s with pending := c :: s.pending } = exec c s

/-- With no command waiting, one millisecond of time base passes for a powered part and nothing else of it changes, and
the events due then join the queue; while filter samples of the present instant are still to be taken they join it and no
time passes; an unpowered part stays as it is (R1, R135; the tick on an empty queue is the model's choice, log 1, and so
is the order of the events, log 11). A runner that has closed an entry and is to go on takes up the head first, and no time
passes: with the list empty it stays in EMPTY and sets the cause LIST_END, and before a head whose id an enabled slot holds
it stops in INTERCEPT (R101, R112 step 4; that this is a step of its own is the model's choice, log 55).
Before a head that no enabled slot holds it decides it at once. A MARK closes MARK_REACHED with the cause MARK set, and with
HOLD the runner is HELD, else it goes on (R103). A PARK opens a record that starts now, and is current while the READY engine
parks; in PARKED it closes PARKED at once and the runner is IDLE (R104). A target whose not-before is not reached less the
estimate is WAITING with its start instant, nothing else changed (R105, R106); else the start check is made at once: one
that fails is skipped with the outcome of its test, and the runner goes on; one that passes begins work with a READY engine
(R107, R108, R109). -/
def Obligations.EmptyQueueTicks : Prop :=
  ∀ s : State, s.pending = [] →
    let run := s.part.runner
    (s.part.power.powered = false → step s = .next s) ∧
    (s.part.power.powered = true → (run.state = .empty → run.ctx.goingOn = false) →
      (dueSamples s.part = [] → step s = .next
        { part := { s.part with clock := { s.part.clock with timeBase := s.part.clock.timeBase + 1 } },
          pending := dueEvents s.part.advance }) ∧
      (dueSamples s.part ≠ [] → step s = .next { s with pending := dueSamples s.part })) ∧
    (s.part.power.powered = true → run.state = .empty → run.ctx.goingOn = true →
      run.holdAfter = false → s.part.Noticed →
      (s.part.list.entries = [] → step s = .next { s with part := { s.part with
        runner := { run with ctx := RunCtx.blank }, alerts := { s.part.alerts with listEnd := true } } }) ∧
      ∀ e es, s.part.list.entries = e :: es → s.part.list.trapped e.id = true → step s = .next { s with part := { s.part with
        runner := { run with state := .intercept, ctx := { RunCtx.blank with id := some e.id, fired := true } },
        alerts := { s.part.alerts with intercept := true } } }) ∧
    (s.part.power.powered = true → run.state = .empty → run.ctx.goingOn = true →
      run.holdAfter = false → s.part.Noticed → s.part.log.Ok →
      ∀ e es, s.part.list.entries = e :: es → s.part.list.trapped e.id = false →
      let n := s.part.log.next
      let marked := { s.part.alerts with mark := true }
      let gone := (s.part.list.entries.map Entry.id).filter fun k => k != e.id
      let started : RunRec := { RunRec.fresh n (.list e.id) .park with started := some s.part.stamp }
      (∀ w, e.body = .mark →
        (e.opts.hold = true ∧ w = (.held .mark, RunCtx.blank, marked) ∨
         e.opts.hold = false ∧ ({ s.part with alerts := marked } : Part).goneOnTo e.id = some w) →
        ∃ q, step s = .next { s with part := q } ∧ s.part.Skipped q e .markReached w) ∧
      (e.body = .park → s.part.engine.motion = .ready → s.part.engine.target = none → s.part.engine.passage = none →
        s.part.model.pending = false → s.part.power.restarting = false →
        ∃ q, step s = .next { s with part := q } ∧ q.runner.state = .acquiring ∧
          q.runner.ctx = { RunCtx.blank with id := some e.id, record := some n } ∧ q.list.current = some e.id ∧
          q.list.entries.map Entry.id = s.part.list.entries.map Entry.id ∧ q.log.next = n + 1 ∧
          q.log.find n = some started ∧
          q.engine = { s.part.engine with
            motion := .parking, request := none, arrivedAt := none, unparkAt := none,
            az := { s.part.engine.az with captured := false, profile := none },
            el := { s.part.engine.el with captured := false, profile := none } } ∧
          q.faults = s.part.faults ∧ q.alerts = s.part.alerts ∧ q.power = s.part.power ∧ q.clock = s.part.clock) ∧
      (e.body = .park → s.part.engine.motion = .parked → s.part.engine.target = none →
        ∃ q, step s = .next { s with part := q } ∧ q.runner.state = .idle ∧ q.runner.ctx = RunCtx.blank ∧
          q.list.current = none ∧ q.list.entries.map Entry.id = gone ∧ q.log.next = n + 1 ∧
          q.log.find n = some { started with ended := some s.part.stamp, outcome := some .parked } ∧
          q.engine = { s.part.engine with request := none } ∧ q.faults = s.part.faults ∧ q.alerts = s.part.alerts ∧
          q.power = s.part.power ∧ q.clock = s.part.clock) ∧
      (∀ c r, e.coords = some c → s.part.clock.reading = some r →
        let est := estimateFrom s.part c e.body.dwell (e.opts.wrap.getD .near) s.part.demands r
        let o := (checkEntry s.part e c s.part.engine.az.demand (r + (est : Int))).outcome
        (∀ nb, e.opts.notBefore = some nb → r < nb - (est : Int) →
          step s = .next { s with part := { s.part with runner := { run with
            state := .waiting,
            ctx := { RunCtx.blank with
              id := some e.id, startAt := some (nb - (est : Int)), estimate := some est } } } }) ∧
        ((∀ nb, e.opts.notBefore = some nb → nb - (est : Int) ≤ r) →
          (∀ skip w, o.skip = some skip → s.part.goneOnTo e.id = some w →
            ∃ q, step s = .next { s with part := q } ∧ s.part.Skipped q e skip w) ∧
          (o = .run → e.opts.giveUp.any (fun g => decide (g ≤ r)) = false → s.part.engine.motion = .ready →
            s.part.engine.target = none → s.part.engine.passage = none → s.part.countsTripped = false →
            s.part.wind.hold = false → s.part.model.pending = false → s.part.power.restarting = false →
            ∃ q, step s = .next { s with part := q } ∧ s.part.Begun q e c est))))

/-- No command sets, steps or trims the time base: only applying power takes it back to 0 (R1). -/
def Obligations.TimeBaseFree : Prop :=
  ∀ (c : Instr) (s : State), ∃ t, exec c s = .next t ∧ t.pending = s.pending ∧
    t.part.clock.timeBase = match c with
      | .powerOn _ => 0
      | _ => s.part.clock.timeBase

/-- What reset leaves: each block at its power-on values (R1, R2, R9, R14, R21, R27, R50, R68, R78, R91, R96, R120, R124, R135,
R143, R149, R154, R162, R164, R168, R169, R180). What the configuration store gives stands at its default of an invalid store,
with the model generation 0, until the load ends: that reading is log 3's. That the address straps read 0, that the store was
never written, so that its mark and the load result are INVALID and its image holds the defaults, and that every wire stands
at its inactive level is the model's choice (log 4), and so are the encoder counts of 0 (log 8). -/
def Obligations.ResetValues : Prop :=
  let p := State.reset.part
  let terms : Terms := { ia := 0, ie := 0, ca := 0, np := 0, an := 0, ae := 0, tf := 0 }
  let site : Site := { latitude := 0, refraction := 35000 }
  let axis : AxisState :=
    { referenced := false, demand := 0, velocity := 0, profile := none, captured := false, actual := none, error := none,
      overSince := none, encoder := 0, zero := 0, search := none }
  let cfg : AxisCfg :=
    { azLo := -972000000, azHi := 972000000, elLo := 18000000, elHi := 323640000, azVmax := 10800000, elVmax := 7200000,
      accel := 3600000, creep := 180000, settle := 3000, arrTol := 5000, trkTol := 2000, tripTrk := 360000,
      tripSlw := 3600000, parkAz := 0, parkEl := 324000000, stowEl := 320400000, keyAlt := 316800000, azIndex := 0,
      elIndex := 162000000 }
  let zone : Zone := { azMin := 0, azMax := 0, elMin := 0, elMax := 0, on := false }
  let limits : Limits := { mask := List.replicate 36 36000000, zones := List.replicate 8 zone }
  let limit : FilterCfg := { polarity := .low, code := 2 }
  let inputs : PerInput FilterCfg :=
    { azPrePos := limit, azPreNeg := limit, azFinPos := limit, azFinNeg := limit, elPreLow := limit, elPreHigh := limit,
      elFinLow := limit, elFinHigh := limit, estop := { polarity := .low, code := 1 },
      wrapSide := { polarity := .high, code := 3 }, wind := { polarity := .high, code := 4 },
      dome := { polarity := .high, code := 5 } }
  let ctx : RunCtx :=
    { id := none, fired := false, startAt := none, estimate := none, record := none, accum := 0, countFrom := none,
      domeFrom := none, observed := false, goingOn := false }
  let quiet : LineState := { buffer := [], charAt := 0, reply := none, muted := false }
  State.reset.pending = [] ∧
  p.clock = { timeBase := 0, isSet := false, anchorSite := 0, anchorBase := 0, refTime := 0, refAngle := 0,
              trim := none } ∧
  p.site = site ∧ p.lastAz = none ∧ p.model = { staged := terms, active := terms, generation := 0, pending := false } ∧
  p.engine =
    { motion := .waking, az := axis, el := axis, offArc := 0, offEl := 0, cfg := cfg, target := none, request := none,
      passage := none, arrivedAt := none, unparkAt := none, mismatch := false, encodersOn := true, backout := none,
      halting := false, disturbed := false, seen := none, demandAt := none } ∧
  p.limits = limits ∧
  p.list = { entries := [], current := none, slots := List.replicate 4 { id := none, on := false }, draft := none } ∧
  p.runner = { state := .idle, holdAfter := false, windResume := false, domeWait := 60000, ctx := ctx } ∧
  p.planner = { pass := none } ∧
  p.guide =
    { enable := true, rate := 7500, step := 5000, remA := 0, remE := 0, accA := 0, accE := 0, told := false,
      allowed := false, counted := none, applied := 0, superseded := 0, clipped := 0, saturated := false } ∧
  (∀ i, p.inputs.get i =
    { cfg := inputs.get i, enabled := !switchable i, last := none,
      recognised := if switchable i then none else some false,
      wire := if (inputs.get i).polarity = .low then .high else .low, sampledAt := none }) ∧
  p.wind = { hold := false, timer := none, release := 1200000, autoResume := true } ∧
  p.faults = { recs := List.replicate 8 none, order := [], overflow := false } ∧
  p.alerts = { masked := true, mark := false, intercept := false, listEnd := false, plan := false, wind := false } ∧
  p.log = { records := [], next := 1 } ∧
  p.power =
    { powered := true, loaded := false, restarting := false, mark := false, loadResult := false, writing := none,
      waitCode := 2, wait := some (0, 2000),
      store :=
        { site := site, cfg := cfg, limits := limits, inputs := inputs, windOn := false, domeOn := false,
          release := 1200000, autoResume := true, domeWait := 60000, guideEnable := true, guideRate := 7500,
          guideStep := 5000, terms := terms, waitCode := 2 } } ∧
  p.line =
    { a := quiet, b := quiet, locksA := [], locksB := [], last := none, msgErr := false, bcast := false, address := 0 }

/-- Every property that the steps keep holds right after reset (R27, R49, R50, R78, R91, R124, R135, R154, R164,
R175). -/
def Obligations.ResetKeepsRules : Prop :=
  let p := State.reset.part
  p.faults.Ok ∧ p.log.Ok ∧ p.RecordsOk ∧ p.list.Ok ∧ p.guide.Ok ∧ p.EngineOk ∧ p.RestartOk ∧ p.ConfigOk ∧ p.Noticed

/-- POWER_ON: whatever stood before, every block takes its power-on values, the address is read from the straps, the
encoder wait of 2,000 ms starts and the store load begins; only the store and its mark are what they were (R169, R177,
R180). What the manual leaves open there is the model's: the defaults stand until the load ends (log 3), the load result is
the mark from power-on and the wires stand inactive (log 4), the encoder counts are 0 (log 8), and a part already powered
starts afresh (log 35). -/
def Obligations.PowerOnStartsAfresh : Prop :=
  ∀ (straps : BitVec 5) (s : State), ∃ q : Part,
    exec (.powerOn straps) s = .next { s with part := q } ∧
    q.power = { powered := true, loaded := false, restarting := false, mark := s.part.power.mark,
                loadResult := s.part.power.mark, writing := none, waitCode := 2, wait := some (0, 2000),
                store := s.part.power.store } ∧
    q.line = { State.reset.part.line with address := straps } ∧
    q = { State.reset.part with power := q.power, line := q.line }

/-- STORE_LOAD_END with a valid mark: every stored item is put into its owner, generation 1 included. Each input takes its
stored polarity and code, and the stored enable where it has one (WIND, DOME): an input newly enabled is recognised
INACTIVE with no last sample, one newly disabled is not recognised at all, and a filter whose polarity or code changed has
no last sample (R135, R137, R170, R176; the present instant is then not sampled any more, log 9). With an invalid mark the
owners keep what they have, which since power-on is the defaults (log 3), and STORE_INVALID is recorded (R170). Either way
reception begins. -/
def Obligations.StoreLoadEnds : Prop :=
  ∀ s : State, s.part.power.powered = true → s.part.power.loaded = false →
    (s.part.power.mark = true → ∃ q, exec .storeLoadEnd s = .next { s with part := q } ∧
      let im := s.part.power.store
      q.power = { s.part.power with loaded := true, loadResult := true, waitCode := im.waitCode } ∧
      q.site = im.site ∧ q.engine = { s.part.engine with cfg := im.cfg } ∧ q.limits = im.limits ∧
      q.model = { s.part.model with staged := im.terms, active := im.terms, generation := 1 } ∧
      q.wind = { s.part.wind with release := im.release, autoResume := im.autoResume } ∧
      q.runner.domeWait = im.domeWait ∧ q.guide.enable = im.guideEnable ∧ q.guide.rate = im.guideRate ∧
      q.guide.step = im.guideStep ∧
      (∀ i,
        let f := s.part.inputs.get i
        let cfg := im.inputs.get i
        let on : Bool := match i with
          | .wind => im.windOn
          | .dome => im.domeOn
          | _ => true
        q.inputs.get i = { f with
          cfg := cfg, enabled := on,
          recognised := if on = f.enabled then f.recognised else if on then some false else none,
          last := if cfg = f.cfg ∧ on = f.enabled then f.last else none,
          sampledAt := if cfg = f.cfg ∧ (on = f.enabled ∨ on = false) then f.sampledAt
            else some s.part.clock.timeBase }) ∧
      q.faults = s.part.faults ∧ q.list = s.part.list ∧ q.log = s.part.log ∧ q.line = s.part.line ∧
      q.clock = s.part.clock ∧ q.alerts = s.part.alerts ∧ q.planner = s.part.planner ∧ q.lastAz = s.part.lastAz ∧
      q.runner.state = s.part.runner.state) ∧
    (s.part.power.mark = false → s.part.Noticed →
      exec .storeLoadEnd s = .next { s with part := { s.part with
        power := { s.part.power with loaded := true, loadResult := false },
        faults := s.part.faults.record
          { source := .store, reason := .storeInvalid, entry := none, az := none, el := none } s.part.stamp } })

/-! ### Waits and clocks (R6, R34, R40, R171) -/

/-- ENCODER_WAIT_EXPIRY takes WAKING to UNREFERENCED (R171).
UNPARK_WAIT_EXPIRY takes UNPARKING to READY when nothing waits there (R35, R40). With a wind hold in force the arrival in READY
starts the stow, from the demands in force (R35, R151). With the worked entry's target request waiting and no hold, it makes
its slew start: SLEWING with no offsets from the demands in force, the target that of the request, and its record written with
the present instant, the side and the generation (R31, R61, R109, R165). Each is stated with no activation pending.
SETTLE_TIMEOUT takes a GOTO's SETTLING to TRACKING, which it then has reached (R34).
SETTLE_TIMEOUT of the worked entry's target: TRACKING, reached; the keyhole time of a chase that ends here is added to its
record (R66); the Guide Unit is told, and takes the record as counted with its counters at zero if it was not (R125). The
runner enters OBSERVING where the entry has been observed before, or, on its first TRACKING with no absence being timed,
where DOME is disabled or recognised ACTIVE, and dwell then counts from this instant; else an absence is timed from here, or
goes on being timed, and it stays ACQUIRING; with a dome wait of 0 the entry closes DOME_TIMEOUT at once (R110, R111; an
absence that an enabling began, log 29; one kept by the flag of a first observation, log 13; the guide told first, log 59).
TRIM_FOLD: at the end of the 10,000 ms the trim is folded into the anchor and nothing else changes, and the reading
is the same before and after, at that instant and at every later one (R2, R6). -/
def Obligations.TimedEventsHappen : Prop :=
  (∀ s : State, s.part.power.powered = true → s.part.Noticed →
     (∀ b len, s.part.engine.motion = .waking → s.part.power.wait = some (b, len) → b + len ≤ s.part.clock.timeBase →
       exec .encoderWaitExpiry s = .next { s with part := { s.part with
         power := { s.part.power with wait := none },
         engine := { s.part.engine with motion := .unreferenced } } }) ∧
     (∀ b, s.part.engine.motion = .unparking → s.part.engine.unparkAt = some b → b + 1000 ≤ s.part.clock.timeBase →
       s.part.model.pending = false → s.part.engine.target = none → s.part.engine.passage = none →
       let e := s.part.engine
       let arrived (m : Motion) : Engine := { e with
         motion := m, arrivedAt := none, request := none, halting := false, unparkAt := none,
         az := { e.az with captured := false, profile := none },
         el := { e.el with captured := false, profile := none } }
       (s.part.wind.hold = false → e.request = none →
         exec .unparkWaitExpiry s = .next { s with part := { s.part with engine := arrived .ready } }) ∧
       (s.part.wind.hold = true → s.part.power.restarting = false →
         exec .unparkWaitExpiry s = .next { s with part := { s.part with engine := arrived .stowing } }) ∧
       (∀ g, s.part.wind.hold = false → s.part.power.restarting = false → e.request = some g →
         ∃ q t, exec .unparkWaitExpiry s = .next { s with part := q } ∧
           q.engine = { arrived .slewing with offArc := 0, offEl := 0, target := some t } ∧
           t.given = g ∧ t.arrived = false ∧ t.reached = false ∧
           q.log = (match g.record with
             | some n => s.part.log.change n fun r => { r with
                 started := some s.part.stamp, side := some t.side, generation := some s.part.model.generation }
             | none => s.part.log) ∧
           q.guide.accA = 0 ∧ q.guide.accE = 0 ∧ q.guide.remA = 0 ∧ q.guide.remE = 0 ∧
           q.runner = s.part.runner ∧ q.list = s.part.list ∧ q.faults = s.part.faults ∧ q.wind = s.part.wind ∧
           q.model = s.part.model ∧ q.power = s.part.power ∧ q.clock = s.part.clock ∧ q.line = s.part.line)) ∧
     (∀ b t, s.part.engine.motion = .settling → s.part.engine.arrivedAt = some b →
       (b : Int) + max 0 s.part.engine.cfg.settle ≤ s.part.clock.timeBase →
       s.part.engine.target = some t → t.given.origin = .goto → t.given.guide = false →
       s.part.engine.passage = none → s.part.runner.ctx.record = none →
       exec .settleTimeout s = .next { s with part := { s.part with
         engine := { s.part.engine with
           motion := .tracking, arrivedAt := none, target := some { t with reached := true } } } }) ∧
     (∀ b t n id, s.part.engine.motion = .settling → s.part.engine.arrivedAt = some b →
       (b : Int) + max 0 s.part.engine.cfg.settle ≤ s.part.clock.timeBase →
       s.part.engine.target = some t → t.given.origin = .list id → t.given.record = some n →
       s.part.runner.state = .acquiring → s.part.runner.ctx.id = some id → s.part.runner.ctx.record = some n →
       let now := s.part.clock.timeBase
       let run := s.part.runner
       let dome := s.part.inputs.dome
       let present : Bool := !dome.enabled || dome.recognised == some true
       let observes : Bool := run.ctx.observed || run.ctx.domeFrom.isNone && present
       let guides : Bool := t.given.guide && s.part.guide.enable
       let told : Guide := { s.part.guide with told := t.given.guide, allowed := guides }
       let guide : Guide := if guides && told.counted != some n then
           { told with counted := some n, applied := 0, superseded := 0, clipped := 0, saturated := false }
         else told
       let reached : Part := { s.part with
         guide := guide,
         log := match s.part.engine.passage with
           | some k => s.part.log.change n fun r => { r with keyholeMs := r.keyholeMs + (now - k.entered) }
           | none => s.part.log,
         engine := { s.part.engine with
           motion := .tracking, arrivedAt := none, passage := none, target := some { t with reached := true } } }
       (observes = true → exec .settleTimeout s = .next { s with part := { reached with runner := { run with
         state := .observing,
         ctx := { run.ctx with observed := true, countFrom := if present then some now else none } } } }) ∧
       (observes = false → (run.ctx.domeFrom.isSome = true ∨ 0 < run.domeWait) →
         exec .settleTimeout s = .next { s with part := { reached with runner := { run with
           ctx := { run.ctx with domeFrom := some (run.ctx.domeFrom.getD now) } } } }) ∧
       (observes = false → run.ctx.domeFrom = none → run.domeWait = 0 → s.part.engine.passage = none →
         ∃ q, exec .settleTimeout s = .next { s with part := q } ∧ s.part.Closed q n id .domeTimeout ∧
           s.part.WentOn q ∧ q.engine.target = none ∧
           q.faults = s.part.faults.record
             { source := .list, reason := .domeTimeout, entry := some id, az := s.part.engine.az.actual,
               el := s.part.engine.el.actual } s.part.stamp ∧
           q.guide.allowed = false ∧ q.guide.counted = guide.counted ∧ q.guide.applied = guide.applied ∧
           q.guide.superseded = guide.superseded ∧ q.guide.clipped = guide.clipped ∧
           q.guide.saturated = guide.saturated))) ∧
  (∀ (s : State) (t : Trim), s.part.power.powered = true → s.part.Noticed → s.part.clock.trim = some t →
     t.start + 10000 ≤ s.part.clock.timeBase →
     let c := { s.part.clock with anchorSite := s.part.clock.anchorSite + t.delta, trim := none }
     exec .trimFold s = .next { s with part := { s.part with clock := c } } ∧
     ∀ b, t.start + 10000 ≤ b → c.readingAt b = s.part.clock.readingAt b)

/-! ### The Motion Engine's intervals and events (03, 04, 09) -/

/-- One interval in the states that follow no target. READY: both encoders are read, the errors formed from the demands in
force, the over-threshold runs judged against the tracking threshold, DISTURBED set or cleared, the demands held within the
soft limits with velocity 0; nothing else changes (R28, R29, R30, R47, R48). WRAPSIDE's latch: while it is set no mismatch is
reported again, and the first interval without one releases it (R143). At the first interval of a mismatch WRAP_MISMATCH is
reported of INPUTS with the actual positions, the latch is set, and the report trips the engine (R49, R143); that the
cross-check comes before the new demand, so that nothing else is reported at that interval, is the model's reading (log 25).
STOPPING, and a stow that a pre-limit halts: each axis eases to rest; both at rest, the engine is STOWED, or READY, where a
wind hold in force starts the stow (R35, R37, R140, R151), which a restart brings to rest again, so that it is STOWED (R54,
R175; log 14). PARKING: both axes slew to the park position; at the arrival both drives go off, and the engine is PARKED (R39), where
a PARK entry closes PARKED and the runner is IDLE (R104), with no arrived time written into its record by the model's choice
(log 64). STOWING: the azimuth eases to rest, the elevation slews to STOWEL, and at the arrival both axes hold in STOWED
(R151). BACKOUT: the axis is brought to its creep speed, or, once halted, to rest, where its drive goes off in TRIPPED; at a
travel of 18,000,000 with a limit of the side still ACTIVE, BACKOUT_FAILED is reported of the axis and the engine is TRIPPED
(R147), the report carrying no entry and no positions by the model's reading (log 31). A hold may be in force in every one of
these states, and is in every stow (R150, R151). Stated with no pending activation (R24), and STOPPING with no request
waiting. That every interval runs a whole 10 ms of profile, the
first after a stop, park, stow or backout too, is the model's choice (log 49); the velocity of the interval that captures is
its reading of R29 (log 61), and so is the demand of an axis whose drive goes off outside the soft limits, its actual
position (log 62). -/
def Obligations.RestingIntervals : Prop :=
  (∀ (s : State) (rawAz rawEl : Int), s.part.power.powered = true → s.part.Noticed → s.part.intervalDue = true →
     s.part.engine.encodersOn = true → s.part.engine.az.referenced = true → s.part.engine.el.referenced = true →
     let e := s.part.engine
     let c := e.cfg
     let now := s.part.clock.timeBase
     let here := rawAz + e.az.zero
     let there := rawEl + e.el.zero
     let apart : Bool := if s.part.active .wrapSide then decide (here < -7200000) else decide (7200000 < here)
     let held (x : AxisState) (raw lo hi : Int) : AxisState :=
       let err := x.demand - (raw + x.zero)
       { x with
         encoder := raw, actual := some (raw + x.zero), error := some err,
         overSince := if -c.tripTrk ≤ err ∧ err ≤ c.tripTrk then none else some (x.overSince.getD now),
         velocity := 0, profile := none,
         demand := if x.demand < lo then lo else if hi < x.demand then hi else x.demand }
     let off (x : AxisState) (raw : Int) : Bool :=
       !decide (-c.trkTol ≤ x.demand - (raw + x.zero) ∧ x.demand - (raw + x.zero) ≤ c.trkTol)
     (e.motion = .ready → (apart = true → e.mismatch = true) →
       exec (.demandInterval rawAz rawEl) s = .next { s with part := { s.part with
         engine := { e with
           seen := none, demandAt := some now, mismatch := apart,
           az := held e.az rawAz c.azLo c.azHi, el := held e.el rawEl c.elLo c.elHi,
           disturbed := off e.az rawAz || off e.el rawEl } } }) ∧
     (apart = true → e.mismatch = false → e.motion ≠ .referencing →
       let rests : Bool := e.motion == .tripped || e.motion == .parked || e.motion == .dormant
       ∃ q, exec (.demandInterval rawAz rawEl) s = .next { s with part := q } ∧
         q.faults = s.part.faults.record
           { source := .inputs, reason := .wrapMismatch, entry := none, az := some here, el := some there } s.part.stamp ∧
         q.engine.mismatch = true ∧ q.engine.motion = (if rests then e.motion else .tripped) ∧
         (rests = false → q.engine.target = none ∧ q.engine.az.velocity = 0 ∧ q.engine.el.velocity = 0 ∧
           q.engine.az.demand = here ∧ q.engine.el.demand = there) ∧
         q.runner.state = (if s.part.runner.state = .idle then .idle else .held .trip) ∧
         q.inputs = s.part.inputs ∧ q.wind = s.part.wind ∧ q.limits = s.part.limits ∧ q.power = s.part.power ∧
         q.clock = s.part.clock ∧ q.line = s.part.line)) ∧
  (∀ (s : State) (rawAz rawEl : Int), s.part.Reads rawAz → s.part.Noticed → s.part.model.pending = false →
     let e := s.part.engine
     let c := e.cfg
     let here := rawAz + e.az.zero
     let there := rawEl + e.el.zero
     let at_ (d actual : Mas) : Prop := -c.arrTol ≤ d - actual ∧ d - actual ≤ c.arrTol
     0 < c.accel → c.azLo ≤ c.azHi → c.elLo ≤ c.elHi →
     (e.motion = .stopping ∧ e.request = none ∨ e.motion = .stowing ∧ e.halting = true →
       let rest : Motion :=
         if e.motion = .stowing then .stowed
         else if s.part.wind.hold then if s.part.power.restarting then .stowed else .stowing
         else .ready
       ∃ q y z, exec (.demandInterval rawAz rawEl) s = .next { s with part := q } ∧ s.part.OnlyMoves q ∧
         e.az.Eases y c.accel c.azLo c.azHi ∧ e.el.Eases z c.accel c.elLo c.elHi ∧
         q.engine.az.demand = y.demand ∧ q.engine.el.demand = z.demand ∧
         q.engine.az.velocity = y.velocity ∧ q.engine.el.velocity = z.velocity ∧
         q.engine.motion = (if y.velocity = 0 ∧ z.velocity = 0 then rest else e.motion)) ∧
     (e.motion = .parking → c.azLo ≤ c.parkAz → c.parkAz ≤ c.azHi →
       let park : Mas := if c.parkEl < c.elLo then c.elLo else if c.elHi < c.parkEl then c.elHi else c.parkEl
       ∃ q y z, exec (.demandInterval rawAz rawEl) s = .next { s with part := q } ∧
         e.az.Slews y c.accel c.azVmax c.arrTol c.parkAz c.parkAz c.azLo c.azHi ∧
         e.el.Slews z c.accel c.elVmax c.arrTol park park c.elLo c.elHi ∧
         (let arrives := y.captured = true ∧ z.captured = true ∧ at_ c.parkAz here ∧ at_ park there
          (¬arrives → s.part.OnlyMoves q ∧ q.engine.motion = .parking ∧
            q.engine.az.demand = y.demand ∧ q.engine.az.velocity = y.velocity ∧ q.engine.az.captured = y.captured ∧
            q.engine.el.demand = z.demand ∧ q.engine.el.velocity = z.velocity ∧ q.engine.el.captured = z.captured) ∧
          (arrives → q.engine.motion = .parked ∧ q.engine.az.demand = here ∧ q.engine.el.demand = there ∧
            q.engine.az.velocity = 0 ∧ q.engine.el.velocity = 0 ∧ q.engine.disturbed = false ∧
            (s.part.runner.state.working = false → s.part.OnlyMoves q) ∧
            (∀ id n w, s.part.runner.state = .acquiring → s.part.runner.ctx.id = some id →
              s.part.runner.ctx.record = some n → s.part.list.find id = some w → w.body = .park → e.target = none →
              s.part.Closed q n id .parked ∧ q.runner.state = .idle ∧ q.runner.ctx = RunCtx.blank ∧
              q.faults = s.part.faults)))) ∧
     (e.motion = .stowing → e.halting = false → c.elLo ≤ c.stowEl → c.stowEl ≤ c.elHi →
       ∃ q y z, exec (.demandInterval rawAz rawEl) s = .next { s with part := q } ∧ s.part.OnlyMoves q ∧
         e.az.Eases y c.accel c.azLo c.azHi ∧
         e.el.Slews z c.accel c.elVmax c.arrTol c.stowEl c.stowEl c.elLo c.elHi ∧
         q.engine.az.demand = y.demand ∧ q.engine.el.demand = z.demand ∧
         (let arrives := z.captured = true ∧ y.velocity = 0 ∧ at_ y.demand here ∧ at_ c.stowEl there
          (¬arrives → q.engine.motion = .stowing ∧ q.engine.az.velocity = y.velocity ∧
            q.engine.el.velocity = z.velocity ∧ q.engine.el.captured = z.captured) ∧
          (arrives → q.engine.motion = .stowed ∧ q.engine.az.velocity = 0 ∧ q.engine.el.velocity = 0))) ∧
     (∀ b, e.motion = .backout → e.backout = some b →
       let axis (e : Engine) : AxisState := match b.axis with
         | .az => e.az
         | .el => e.el
       let creep : Int := match b.dir with
         | .pos => c.creep * fx
         | .neg => -(c.creep * fx)
       let goal := if e.halting then 0 else creep
       let v := broughtTo c.accel (axis e).velocity goal
       let d := ((axis e).drive c.accel goal).demand
       let leaves := b.dir.flip
       let failed := (18000000 ≤ d - b.start ∨ d - b.start ≤ -18000000) ∧
         (s.part.active (finLimit b.axis leaves) = true ∨ s.part.active (preLimit b.axis leaves) = true)
       ∃ q, exec (.demandInterval rawAz rawEl) s = .next { s with part := q } ∧
         (failed → q.engine.motion = .tripped ∧ q.engine.backout = none ∧
           q.faults = s.part.faults.record
             { source := if b.axis = .az then .azAxis else .elAxis, reason := .backoutFailed, entry := none, az := none,
               el := none } s.part.stamp) ∧
         (¬failed → s.part.OnlyMoves q ∧
           (e.halting = true ∧ v = 0 → q.engine.motion = .tripped ∧ q.engine.backout = none ∧
             q.engine.halting = false ∧ (axis q.engine).velocity = 0 ∧
             (axis q.engine).demand = if b.axis = .az then here else there) ∧
           (¬(e.halting = true ∧ v = 0) → q.engine.motion = .backout ∧ q.engine.backout = some b ∧
             (axis q.engine).demand = d ∧ (axis q.engine).velocity = v))))

/-- R30 for every interval: in each state that has a demand of its own, but for a reference run and a backout, both demands
lie within their soft limits after it, whatever the encoders, the target, the inputs and the fault table hold. A passage that
begins keeps the demands in force (the model's reading, log 23), so a track is taken with demands inside. -/
def Obligations.DemandsWithinSoftLimits : Prop :=
  ∀ (s t : State) (rawAz rawEl : Int), s.part.intervalDue = true → s.part.power.powered = true →
    s.part.engine.cfg.azLo ≤ s.part.engine.cfg.azHi → s.part.engine.cfg.elLo ≤ s.part.engine.cfg.elHi →
    s.part.engine.motion ∈ [.unparking, .ready, .slewing, .settling, .tracking, .keyhole, .stopping, .parking, .stowing,
      .stowed] →
    (s.part.engine.motion = .tracking → azInside s.part.engine.cfg s.part.engine.az.demand = true ∧
      elInside s.part.engine.cfg s.part.engine.el.demand = true) →
    (s.part.engine.motion = .keyhole → s.part.engine.passage ≠ none) → s.part.EngineOk →
    exec (.demandInterval rawAz rawEl) s = .next t →
    t.part.engine.motion ∈ [.unparking, .ready, .slewing, .settling, .tracking, .keyhole, .stopping, .parking, .stowing,
      .stowed] →
    azInside t.part.engine.cfg t.part.engine.az.demand = true ∧
    elInside t.part.engine.cfg t.part.engine.el.demand = true

/-- One interval in TRACKING of a target that no ending and no keyhole meets: the new demand is the target's position with
the offsets, its azimuth unwrapped by continuity with the demand in force, each velocity the change over the interval (R29,
R34, R56). While guiding is allowed the Guide Unit first applies one ramp step on each axis, both at the limit of the guide
rate over 100, rounded with halves away from zero, so that this interval's demand includes it; a step that the bound stops is
a saturation, reported as GUIDE_SATURATED of GUIDE with the counted record's list entry and the actual positions, and its
flag is written into the counted record (R18, R130, R131, R132); while it is not allowed the Guide Unit stays as it is. A
saturation does not stop the track. The target record keeps its destination, the last one of SETTLING, all through TRACKING:
that is the model's choice (log 50). An AXIS target passes through no pipeline: its demands are the positions it gives,
whatever the offsets, no last demanded sky azimuth is set and no place is seen (R14, R20, R77). Stated with both axes referenced
and inside their limits. -/
def Obligations.TrackingDemandFollows : Prop :=
  ∀ (s : State) (rawAz rawEl : Int) (t : Target) (n : Int), s.part.power.powered = true →
    s.part.engine.motion = .tracking → s.part.intervalDue = true → s.part.engine.encodersOn = true →
    s.part.engine.az.referenced = true → s.part.engine.el.referenced = true →
    wrapDisagrees (s.part.active .wrapSide) (rawAz + s.part.engine.az.zero) = false →
    s.part.engine.target = some t →
    let g := s.part.guide
    0 ≤ g.rate → 50 * (2 * n - 1) ≤ g.rate → g.rate < 50 * (2 * n + 1) →
    let ramp (acc rem : Mas) : RampStep :=
      if g.allowed then rampStep n acc rem else { acc := acc, rem := rem, saturated := false }
    let x := ramp g.accA g.remA
    let y := ramp g.accE g.remE
    let after : Guide := { g with
      accA := x.acc, remA := x.rem, accE := y.acc, remE := y.rem,
      saturated := g.saturated || x.saturated || y.saturated }
    let a := aimDemand { s.part with guide := after } t.given.coords
    let az : Mas := match t.given.coords with
      | .axis x _ => x
      | _ => s.part.engine.az.demand + signedTurn (a.axes.az - s.part.engine.az.demand)
    (∀ pl, a.place = some pl → standsAbove s.part t.given.minAlt pl = true) → inCone s.part t.given.coords a = false →
    inZones s.part.limits { az := az, el := a.axes.el } = false → azInside s.part.engine.cfg az = true →
    elInside s.part.engine.cfg a.axes.el = true →
    let counted := g.counted.bind s.part.log.find
    let told (b : Bool) (f : FaultTable) : FaultTable :=
      if b then
        f.record
          { source := .guide, reason := .guideSaturated,
            entry := counted.bind fun r => match r.origin with
              | .list id => some id
              | .goto => none,
            az := some (rawAz + s.part.engine.az.zero), el := some (rawEl + s.part.engine.el.zero) } s.part.stamp
      else f
    ∃ q, exec (.demandInterval rawAz rawEl) s = .next { s with part := q } ∧
      q.engine.motion = .tracking ∧ q.engine.target = some t ∧
      q.lastAz = (match a.place with
        | some pl => some pl.az
        | none => s.part.lastAz) ∧
      q.engine.az.demand = az ∧ q.engine.el.demand = a.axes.el ∧
      (∀ x y, t.given.coords = .axis x y → q.engine.el.demand = y ∧ a.place = none) ∧
      q.engine.az.velocity = (az - s.part.engine.az.demand) * 100 * fx ∧
      q.engine.el.velocity = (a.axes.el - s.part.engine.el.demand) * 100 * fx ∧
      q.engine.seen = a.place.map (fun pl => (pl.alt, pl.az)) ∧ q.engine.demandAt = some s.part.clock.timeBase ∧
      q.faults = told y.saturated (told x.saturated s.part.faults) ∧ (s.part.Noticed → q.guide = after) ∧
      ((x.saturated = true ∨ y.saturated = true) → ∀ k r, g.counted = some k → s.part.log.find k = some r →
        ∃ w, q.log.find k = some w ∧ w.saturated = true ∧ w.ended = r.ended) ∧
      q.alerts = s.part.alerts ∧ q.list = s.part.list ∧ q.inputs = s.part.inputs ∧
      q.wind = s.part.wind ∧ q.power = s.part.power ∧ q.line = s.part.line

/-- One interval in SLEWING, for a destination, evaluated anew, that lies inside the soft limits and in no zone: each axis
moves one interval along its profile toward the destination found before, or is captured on the present one (R32, R33);
the target record has the new destination; and the engine goes on slewing until both axes are captured with both actual
positions within the arrival tolerance, which is the arrival: SETTLING from this instant, the target arrived, the arrived
time in its record; or, with a settle time of 0, TRACKING at once (R33, R34). No fault is reported. The model's choices in it: the
interval runs a whole 10 ms of profile from the latest demand, also when a slew start or a redirect stood between two
intervals (log 49; R32 runs in continuous time); a profile is carried over a redirect, and capture is judged on the
destination evaluated anew (log 18); an arrival of a chase writes the arrived time again (log 17); the velocity of the capturing
interval is its change of demand (log 61).
The profile over one interval (R32): the velocity changes by at most the acceleration allows, and one within the top speed
stays within it; from rest, far from the destination, it is one interval's acceleration from rest; at the top speed, with
more than the braking distance ahead, it goes on at the top speed. In fixed point, whose roundings are log 7's. -/
def Obligations.SlewsMoveAndArrive : Prop :=
  (∀ (s : State) (rawAz rawEl : Int) (t : Target), s.part.Reads rawAz → s.part.Noticed →
     s.part.engine.motion = .slewing → s.part.engine.target = some t → t.noRun = false →
     let e := s.part.engine
     let c := e.cfg
     let a := aimDemand s.part t.given.coords
     let az := match t.given.coords with
       | .axis x _ => x
       | _ => t.destAz + signedTurn (a.axes.az - t.destAz)
     let el := a.axes.el
     let here := some (rawAz + e.az.zero)
     let there := some (rawEl + e.el.zero)
     c.azLo ≤ az → az ≤ c.azHi → c.elLo ≤ el → el ≤ c.elHi → inZones s.part.limits { az := az, el := el } = false →
     ∃ q, exec (.demandInterval rawAz rawEl) s = .next { s with part := q } ∧
       e.az.Slews q.engine.az c.accel c.azVmax c.arrTol t.destAz az c.azLo c.azHi ∧
       e.el.Slews q.engine.el c.accel c.elVmax c.arrTol t.destEl el c.elLo c.elHi ∧
       q.engine.az.actual = here ∧ q.engine.el.actual = there ∧
       q.lastAz = (match a.place with
         | some pl => some pl.az
         | none => s.part.lastAz) ∧
       q.engine.offArc = e.offArc ∧ q.engine.offEl = e.offEl ∧
       (let still := q.engine.passage = e.passage ∧ q.faults = s.part.faults ∧ q.list = s.part.list ∧
          q.runner = s.part.runner ∧ q.guide = s.part.guide ∧ q.inputs = s.part.inputs ∧ q.power = s.part.power ∧
          q.line = s.part.line
        let arrives := q.engine.az.captured = true ∧ q.engine.el.captured = true ∧
          -c.arrTol ≤ az - (rawAz + e.az.zero) ∧ az - (rawAz + e.az.zero) ≤ c.arrTol ∧
          -c.arrTol ≤ el - (rawEl + e.el.zero) ∧ el - (rawEl + e.el.zero) ≤ c.arrTol
        (¬arrives → still ∧ q.engine.motion = .slewing ∧ q.engine.arrivedAt = e.arrivedAt ∧ q.log = s.part.log ∧
          q.engine.target = some { t with destAz := az, destEl := el }) ∧
        (let log := match t.given.record with
           | some n => s.part.log.change n fun r => { r with arrived := some s.part.stamp }
           | none => s.part.log
         arrives →
          (c.settle ≠ 0 → still ∧ q.engine.motion = .settling ∧
            q.engine.arrivedAt = some s.part.clock.timeBase ∧ q.log = log ∧
            q.engine.target = some { t with destAz := az, destEl := el, arrived := true }) ∧
          (c.settle = 0 → e.passage = none → s.part.onEntry = false →
            q.engine.motion = .tracking ∧ q.engine.arrivedAt = none ∧ q.log = log ∧ q.runner = s.part.runner ∧
            q.list = s.part.list ∧ q.faults = s.part.faults ∧
            q.engine.target = some { t with destAz := az, destEl := el, arrived := true, reached := true })))) ∧
  (∀ (x : AxisState) (a v d : Int), 0 < a → 0 < v →
     let y := x.advance a v d
     let away := d * fx - x.profileStart
     (-(a * fx + 100 * a) ≤ 100 * (y.velocity - x.velocity) ∧ 100 * (y.velocity - x.velocity) ≤ a * fx + 100 * a) ∧
     (-(v * fx) ≤ x.velocity → x.velocity ≤ v * fx → -(v * fx) ≤ y.velocity ∧ y.velocity ≤ v * fx) ∧
     (x.velocity = 0 → a ≤ 100 * v → a * fx ≤ 10000 * away →
       100 * y.velocity = a * fx ∧ y.profile = some (x.profileStart + a * fx / 20000)) ∧
     (x.velocity = 0 → a ≤ 100 * v → a * fx ≤ -(10000 * away) →
       100 * y.velocity = -(a * fx) ∧ y.profile = some (x.profileStart - a * fx / 20000)) ∧
     (x.velocity = v * fx → v * v * fx * 100 + 2 * a * v * fx + 200 * a ≤ 200 * a * away →
       y.velocity = v * fx ∧ y.profile = some (x.profileStart + v * (fx / 100))))

/-- The endings of a target that the engine heads for or follows, tested at the position of an interval: ZONE first, then
SET, in TRACKING alone and without a report, then LIMIT of the azimuth, then of the elevation (R62, R73, R74, R75); a slew
whose own wrap choice found every run 0 ends LIMIT of the azimuth at its first interval (R60). The ending's fault is
reported, with the entry of a list target and the actual positions, when a record is attached; the target is dropped and the
engine comes to rest by STOPPING, a settled or tracked demand held within the soft limits. A GOTO record closes with the
ending; the entry that the List Runner works closes with it and the runner goes on (R114); a coasted target leaves the log
and the runner as they were. The model's choices in it: a slew with every run 0 so ends wherever its destination lies, a
GOTO's too (log 26); a coasted target keeps its entry's min altitude for the SET test (log 12); the ending interval still
sends its clamped demand, and an ending beats an arrival at the same interval (log 24); the endings come before a keyhole
entry (log 23); and the runner that goes on stands in EMPTY, its next head taken up by a later step (log 55). Stated without
guiding, outside a chase, with no hold in force. -/
def Obligations.FollowedTargetsEnd : Prop :=
  ∀ (s : State) (rawAz rawEl : Int) (t : Target), s.part.Reads rawAz → s.part.Noticed →
    s.part.engine.motion ∈ [.slewing, .settling, .tracking] → s.part.engine.target = some t →
    s.part.guide.allowed = false → s.part.engine.passage = none → s.part.model.pending = false →
    s.part.wind.hold = false →
    let e := s.part.engine
    let c := e.cfg
    let tracking : Bool := e.motion == .tracking
    let a := aimDemand s.part t.given.coords
    let before := if tracking then e.az.demand else t.destAz
    let az := match t.given.coords with
      | .axis x _ => x
      | _ => before + signedTurn (a.axes.az - before)
    let el := a.axes.el
    let zone := inZones s.part.limits { az := az, el := el } = true
    let set := tracking = true ∧ ∃ pl, a.place = some pl ∧ pl.alt < effectiveLower s.part t.given.minAlt pl.az
    let azOut := az < c.azLo ∨ c.azHi < az ∨ (e.motion = .slewing ∧ t.noRun = true)
    let elOut := el < c.elLo ∨ c.elHi < el
    let off (x : AxisState) (raw : Int) : Bool :=
      !decide (-c.trkTol ≤ x.demand - (raw + x.zero) ∧ x.demand - (raw + x.zero) ≤ c.trkTol)
    let disturbed : Ms := if tracking && (off e.az rawAz || off e.el rawEl) then 10 else 0
    ∀ (o : Ending) (why : Option (Source × Reason)),
      (zone ∧ o = .zone ∧ why = some (.limits, .zone) ∨ ¬zone ∧ set ∧ o = .set ∧ why = none ∨
       ¬zone ∧ ¬set ∧ azOut ∧ o = .limit ∧ why = some (.azAxis, .softLimit) ∨
       ¬zone ∧ ¬set ∧ ¬azOut ∧ elOut ∧ o = .limit ∧ why = some (.elAxis, .softLimit)) →
      ∃ q, exec (.demandInterval rawAz rawEl) s = .next { s with part := q } ∧
        q.engine.target = none ∧
        q.engine.motion = (if q.engine.az.velocity = 0 ∧ q.engine.el.velocity = 0 then .ready else .stopping) ∧
        (e.motion ≠ .slewing →
          q.engine.az.demand = (if az < c.azLo then c.azLo else if c.azHi < az then c.azHi else az) ∧
          q.engine.el.demand = (if el < c.elLo then c.elLo else if c.elHi < el then c.elHi else el)) ∧
        q.faults = (match why, t.given.record with
          | some w, some _ => s.part.faults.record
              { source := w.1, reason := w.2,
                entry := match t.given.origin with
                  | .list id => some id
                  | .goto => none,
                az := some (rawAz + e.az.zero), el := some (rawEl + e.el.zero) } s.part.stamp
          | _, _ => s.part.faults) ∧
        (t.given.record = none → q.log = s.part.log ∧ q.runner = s.part.runner ∧ q.list = s.part.list) ∧
        (∀ n r, t.given.record = some n → t.given.origin = .goto → s.part.runner.ctx.record ≠ some n →
          s.part.log.find n = some r → r.isOpen = true →
          q.log.find n = some { r with
            disturbedMs := r.disturbedMs + disturbed, ended := some s.part.stamp, outcome := some o } ∧
          q.runner = s.part.runner ∧ q.list = s.part.list) ∧
        (∀ n id r, t.given.record = some n → t.given.origin = .list id → s.part.runner.state.working = true →
          s.part.runner.ctx.record = some n → s.part.runner.ctx.id = some id →
          s.part.log.find n = some r → r.isOpen = true →
          q.log.find n = some { r with
            dwell := s.part.dwellSoFar, disturbedMs := r.disturbedMs + disturbed, ended := some s.part.stamp,
            outcome := some o } ∧
          q.list.entries.map Entry.id = (s.part.list.entries.map Entry.id).filter (fun k => k != id) ∧
          s.part.WentOn q)

/-- The keyhole passage of a SKY target.
Entry: the interval in TRACKING whose altitude is K or more, with no ending (log 23), keeps both demands, the elevation at
rest, and the passage record gets the instant, t_exit and the exit axis position: t_exit is the mirror of the hour angle
east of the meridian, in whole ms with halves away from zero, and the present instant west of it; the exit position
continues from the demand to the exit azimuth in the target's direction when that lies within the soft limits, else the
other way; with neither inside the target ends LIMIT of the azimuth (R62, R63, R64), from both previous demands by the
model's choice (log 63).
Swing: before t_exit, whatever the altitude, and after it while the target is at K or above, the azimuth slews to the exit
position and the elevation is held, and the last demanded sky azimuth is kept (R65; log 51); a swing demand in a zone ends
the passage ZONE, its time added to the GOTO record first (R66, R72, R73).
Exit: from t_exit on, below K, the offsets are reset and the chase slews from the present demands to the target, by
continuity with the exit position, an azimuth not yet captured on the unrounded profile of its swing by the model's choice
(log 74); the passage goes on, and a runner in OBSERVING is ACQUIRING with its dwell kept (R65,
R111). Its end is SETTLE_TIMEOUT into TRACKING, which adds the keyhole time to the record and discards the passage; STOP in
KEYHOLE or the chase adds it before the GOTO record closes (R66, R67). -/
def Obligations.KeyholePassage : Prop :=
  (∀ (s : State) (rawAz rawEl : Int) (t : Target) (c : Coords) (pl : Place) (r k : Int) (b0 b1 : Place),
     s.part.Reads rawAz → s.part.Noticed → s.part.engine.motion = .tracking → s.part.engine.target = some t →
     t.given.coords = c → c.isSky = true → s.part.guide.allowed = false → s.part.clock.reading = some r →
     let e := s.part.engine
     let a := aimDemand s.part c
     let az := e.az.demand + signedTurn (a.axes.az - e.az.demand)
     a.place = some pl → e.cfg.keyAlt ≤ pl.alt → inZones s.part.limits { az := az, el := a.axes.el } = false →
     standsAbove s.part t.given.minAlt pl = true → azInside e.cfg az = true → elInside e.cfg a.axes.el = true →
     let h := signedTurn pl.hour
     (0 ≤ h → k = 0) →
     (h < 0 → 15041069 * (2 * k - 1) ≤ 4000000 * -h ∧ 4000000 * -h < 15041069 * (2 * k + 1)) →
     let sky : Part := { s.part with lastAz := some pl.az }
     placeAt sky c r = some b0 → placeAt sky c (r - 1000) = some b1 →
     let z := e.az.demand
     let w := (aimAt sky c (r + k)).axes.az
     let rising := 0 ≤ signedTurn (b0.az - b1.az)
     let on := if rising then z + (w - z) % 1296000000 else z - (z - w) % 1296000000
     let back := if rising then on - 1296000000 else on + 1296000000
     (∀ x, (azInside e.cfg on = true ∧ x = on ∨
        azInside e.cfg on = false ∧ azInside e.cfg back = true ∧ x = back) →
       ∃ q, exec (.demandInterval rawAz rawEl) s = .next { s with part := q } ∧ q.engine.motion = .keyhole ∧
         q.engine.az.demand = z ∧ q.engine.az.velocity = e.az.velocity ∧ q.engine.az.captured = false ∧
         q.engine.el.demand = e.el.demand ∧ q.engine.el.velocity = 0 ∧
         q.engine.passage = some { entered := s.part.clock.timeBase, exitAt := r + k, exitAz := x } ∧
         q.engine.target = some { t with
           side := if 0 ≤ x then .pos else .neg, destAz := x, destEl := e.el.demand } ∧
         q.guide.allowed = false ∧ q.model = s.part.model ∧ q.lastAz = some pl.az ∧ q.faults = s.part.faults ∧
         q.list = s.part.list ∧ q.runner.state = s.part.runner.state ∧ q.dwellSoFar = s.part.dwellSoFar) ∧
     (azInside e.cfg on = false → azInside e.cfg back = false → ∀ n x, t.given.record = some n →
       t.given.origin = .goto → s.part.runner.state.working = false → s.part.model.pending = false →
       s.part.wind.hold = false → e.passage = none → s.part.log.find n = some x → x.isOpen = true →
       ∃ q, exec (.demandInterval rawAz rawEl) s = .next { s with part := q } ∧ q.engine.target = none ∧
         q.engine.motion = (if e.az.velocity = 0 ∧ e.el.velocity = 0 then .ready else .stopping) ∧
         q.engine.az.demand = e.az.demand ∧ q.engine.el.demand = e.el.demand ∧
         q.engine.az.velocity = e.az.velocity ∧ q.engine.el.velocity = e.el.velocity ∧ q.lastAz = some pl.az ∧
         (∃ y, q.log.find n = some y ∧ y.outcome = some .limit ∧ y.ended = some s.part.stamp) ∧
         q.faults = s.part.faults.record
           { source := .azAxis, reason := .softLimit, entry := none, az := some (rawAz + e.az.zero),
             el := some (rawEl + e.el.zero) } s.part.stamp)) ∧
  (∀ (s : State) (rawAz rawEl : Int) (t : Target) (k : Passage) (r : Int), s.part.Reads rawAz → s.part.Noticed →
     s.part.engine.motion = .keyhole → s.part.engine.target = some t → s.part.engine.passage = some k →
     s.part.clock.reading = some r →
     let e := s.part.engine
     let c := e.cfg
     let a := aimDemand s.part t.given.coords
     let inside := t.given.coords.isSky = true ∧ ∃ pl, a.place = some pl ∧ c.keyAlt ≤ pl.alt
     c.azLo ≤ k.exitAz → k.exitAz ≤ c.azHi → c.elLo ≤ e.el.demand → e.el.demand ≤ c.elHi →
     (r < k.exitAt ∨ inside →
       ∃ q, exec (.demandInterval rawAz rawEl) s = .next { s with part := q } ∧ q.lastAz = s.part.lastAz ∧
         q.engine.el.demand = e.el.demand ∧
         (inZones s.part.limits { az := q.engine.az.demand, el := e.el.demand } = false →
           e.az.Slews q.engine.az c.accel c.azVmax c.arrTol k.exitAz k.exitAz c.azLo c.azHi ∧
           q.engine.el.velocity = 0 ∧
           q.engine.motion = .keyhole ∧ q.engine.passage = some k ∧ q.engine.target = some t ∧
           q.engine.offArc = e.offArc ∧ q.engine.offEl = e.offEl ∧ q.guide = s.part.guide ∧
           q.faults = s.part.faults ∧ q.log = s.part.log ∧ q.list = s.part.list ∧ q.runner = s.part.runner) ∧
         (inZones s.part.limits { az := q.engine.az.demand, el := e.el.demand } = true → ∀ n x,
           t.given.record = some n → t.given.origin = .goto → s.part.runner.state.working = false →
           s.part.model.pending = false → s.part.wind.hold = false → s.part.log.find n = some x → x.isOpen = true →
           q.engine.target = none ∧ q.engine.passage = none ∧
           q.engine.motion = (if q.engine.az.velocity = 0 then .ready else .stopping) ∧
           q.log.find n = some { x with
             keyholeMs := x.keyholeMs + (s.part.clock.timeBase - k.entered),
             ended := some s.part.stamp, outcome := some .zone } ∧
           q.faults = s.part.faults.record
             { source := .limits, reason := .zone, entry := none, az := some (rawAz + e.az.zero),
               el := some (rawEl + e.el.zero) } s.part.stamp)) ∧
     (k.exitAt ≤ r → ¬inside → t.given.coords.isSky = true →
       let free : Part := { s.part with engine := { e with offArc := 0, offEl := 0 },
                                        guide := { s.part.guide with accA := 0, accE := 0 } }
       let b := aimDemand free t.given.coords
       let az := k.exitAz + signedTurn (b.axes.az - k.exitAz)
       let el := b.axes.el
       c.azLo ≤ az → az ≤ c.azHi → c.elLo ≤ el → el ≤ c.elHi → inZones s.part.limits { az := az, el := el } = false →
       (az - (rawAz + e.az.zero) < -c.arrTol ∨ c.arrTol < az - (rawAz + e.az.zero)) →
       ∃ q, exec (.demandInterval rawAz rawEl) s = .next { s with part := q } ∧ q.engine.motion = .slewing ∧
         ({ e.az with captured := false } : AxisState).Slews q.engine.az c.accel c.azVmax c.arrTol k.exitAz az c.azLo
           c.azHi ∧
         ({ e.el with captured := false } : AxisState).Slews q.engine.el c.accel c.elVmax c.arrTol t.destEl el c.elLo
           c.elHi ∧
         q.engine.target = some { t with destAz := az, destEl := el, noRun := false } ∧ q.engine.passage = some k ∧
         q.engine.offArc = 0 ∧ q.engine.offEl = 0 ∧ q.guide.accA = 0 ∧ q.guide.accE = 0 ∧ q.guide.remA = 0 ∧
         q.guide.remE = 0 ∧ q.model = s.part.model ∧ q.log = s.part.log ∧ q.faults = s.part.faults ∧
         q.list = s.part.list ∧ q.dwellSoFar = s.part.dwellSoFar ∧
         q.runner.state =
           (if s.part.runner.state = .observing ∧ s.part.onEntry = true then .acquiring else s.part.runner.state))) ∧
  (∀ (s : State) (b : Ms) (t : Target) (k : Passage) (n : Nat), s.part.power.powered = true → s.part.Noticed →
     s.part.engine.motion = .settling → s.part.engine.arrivedAt = some b →
     (b : Int) + max 0 s.part.engine.cfg.settle ≤ s.part.clock.timeBase → s.part.engine.target = some t →
     t.given.origin = .goto → t.given.guide = false → t.given.record = some n → s.part.engine.passage = some k →
     s.part.runner.ctx.record = none →
     exec .settleTimeout s = .next { s with part := { s.part with
       log := s.part.log.change n fun x => { x with keyholeMs := x.keyholeMs + (s.part.clock.timeBase - k.entered) },
       engine := { s.part.engine with
         motion := .tracking, arrivedAt := none, passage := none, target := some { t with reached := true } } } }) ∧
  (∀ (s : State) (ln : Line) (t : Target) (k : Passage) (n : Nat) (x : RunRec), Takes s ln .stop →
     s.part.runner.state.running = false → s.part.engine.motion ∈ [.keyhole, .slewing] →
     s.part.engine.target = some t → t.given.origin = .goto → t.given.record = some n →
     s.part.engine.passage = some k → s.part.model.pending = false → s.part.engine.az.velocity ≠ 0 →
     s.part.log.find n = some x → x.isOpen = true →
     ∃ q, exec (.stop (ownFrame ln) []) s = .next { s with part := q } ∧ q.engine.motion = .stopping ∧
       q.engine.target = none ∧ q.engine.passage = none ∧
       q.log.find n = some { x with
         keyholeMs := x.keyholeMs + (s.part.clock.timeBase - k.entered), ended := some s.part.stamp,
         outcome := some .ended } ∧
       Replies q ln .stop .ok [.text "STOPPING"])

/-- FOLLOWING_TRIP: an over-threshold run that has lasted 500 ms at the interval of this instant, in any state but TRIPPED,
PARKED and DORMANT, is reported FOLLOWING of its axis with the current entry and the actual positions; where both axes
complete a run, two reports are made, one of each axis (R48). With none complete nothing happens. Both runs are discarded,
the drives go off where the axes stand, and the engine is TRIPPED with no target (R48, R49). A GOTO record closes TRIPPED
(R45); the runner closes a worked entry TRIPPED and every running or held runner is HELD, reason TRIP, while an IDLE one
stays IDLE (R118). Of two reports at one interval AZ_AXIS comes first (the model's choice, log 57), and both carry the
current entry's id (the model's choice, log 72); an axis with no actual position keeps its demand (log 34), and one beyond
its soft limits takes its actual position as it is (log 62). -/
def Obligations.FollowingErrorTrips : Prop :=
  ∀ s : State, s.part.power.powered = true → s.part.engine.demandAt = some s.part.clock.timeBase →
    let e := s.part.engine
    let run := s.part.runner
    let erring (x : AxisState) : Bool := x.overSince.any fun b => decide (b + 500 ≤ s.part.clock.timeBase)
    let told (b : Bool) (source : Source) (f : FaultTable) : FaultTable :=
      if b then
        f.record { source := source, reason := .following, entry := s.part.list.current, az := e.az.actual,
                   el := e.el.actual } s.part.stamp
      else f
    (erring e.az = false → erring e.el = false → s.part.Noticed → exec .followingTrip s = .next s) ∧
    (erring e.az = true ∨ erring e.el = true → e.motion ∉ [.tripped, .parked, .dormant] →
      ∃ q, exec .followingTrip s = .next { s with part := q } ∧
        q.faults = told (erring e.el) .elAxis (told (erring e.az) .azAxis s.part.faults) ∧
        q.engine.motion = .tripped ∧ q.engine.target = none ∧ q.engine.passage = none ∧
        q.engine.az.overSince = none ∧ q.engine.el.overSince = none ∧
        q.engine.az.velocity = 0 ∧ q.engine.el.velocity = 0 ∧
        q.engine.az.demand = e.az.actual.getD e.az.demand ∧ q.engine.el.demand = e.el.actual.getD e.el.demand ∧
        q.guide.allowed = false ∧ q.inputs = s.part.inputs ∧ q.wind = s.part.wind ∧ q.power = s.part.power ∧
        q.clock = s.part.clock ∧ q.line = s.part.line ∧ q.limits = s.part.limits ∧ q.alerts = s.part.alerts ∧
        q.runner.state = (if run.state = .idle then .idle else .held .trip) ∧ q.runner.windResume = false ∧
        (run.state ≠ .idle → q.runner.ctx = RunCtx.blank) ∧
        (run.state.working = false → s.part.model.pending = false → q.list = s.part.list) ∧
        (run.state.working = false → e.target = none → q.log = s.part.log) ∧
        (∀ t n, e.target = some t → t.given.origin = .goto → t.given.record = some n → e.passage = none →
          run.state.working = false → q.log = s.part.log.change n (fun r => r.close .tripped s.part.stamp)) ∧
        (∀ n id, run.state.working = true → run.ctx.id = some id → run.ctx.record = some n → e.passage = none →
          (∀ t, e.target = some t → t.given.origin ≠ .goto) → s.part.Closed q n id .tripped))

/-! ### Inputs, limits and wind (09) -/

/-- INPUT_RECOGNITION: a sample that repeats the recognised level, and with a filter code of 1 to 7 one that differs from the
last one, recognises nothing and becomes the last sample; between the multiples of V, and for a disabled input, only the wire
is noted (R136; the wire as a pin of its own is the model's, log 9). A sample that differs from the recognised level is
recognised with code 0, and with a code of 1 to 7 when it is the second in a row (R136); the rest holds for every code.
WRAPSIDE at either level, ESTOP INACTIVE, and a limit INACTIVE outside BACKOUT: the recognised level changes and nothing more
(R140, R141, R143, R147). ESTOP or a final limit recognised ACTIVE: ESTOP is reported of INPUTS, FINAL_LIMIT of its axis,
with the current entry and the actual positions, and the engine is TRIPPED with no target, both drives off where the axes
stand (an axis with no actual position keeps its demand, log 34; one beyond its soft limits stays there, log 62), or stays as
it is in TRIPPED, PARKED and DORMANT; a running runner is HELD, reason TRIP, with no entry being worked (R49, R118, R141). A
pre-limit recognised ACTIVE is reported PRE_LIMIT of its axis, and nothing more in STOPPING, READY, UNPARKING and STOWED; it
is not even reported in BACKOUT, UNREFERENCED, WAKING, PARKED, TRIPPED and DORMANT. A slew, a track or a passage ends: the
keyhole time of a passage is added to the record first, a GOTO record closes PRE_LIMIT, and so does the worked entry of a list
target, whose runner goes on; a coasted target has no record; the engine comes to rest by STOPPING (R66, R114, R140). A park
is abandoned, a PARK entry closing PRE_LIMIT (R104, R140); a stow is brought to rest where it is, STOWED at once when nothing
moves. A reference search in the limit's direction is turned round the first time; a limit in the new direction after that
is reported too, and then NO_INDEX of the axis, which trips the engine with both axes unreferenced (R140, R145; the report in
REFERENCING, log 30; no entry and no positions in NO_INDEX, log 31). Stated where a stop that is at rest finds no hold in
force. A limit recognised INACTIVE in BACKOUT: while a limit of the side that is left stays ACTIVE nothing more; else the axis
is brought to rest, and once at rest its drive is off and the engine TRIPPED (R147). DOME recognised INACTIVE after the
first TRACKING on the worked entry starts timing an absence, unless one is being timed, and dwell stops counting; before it,
or with no entry being worked, nothing more happens. Recognised ACTIVE, it ends the absence: in TRACKING and KEYHOLE the runner enters OBSERVING, dwell counting in
TRACKING; elsewhere the next TRACKING will, once the first has been reached (R110, R111, R148; log 13, log 29). -/
def Obligations.SamplesAreVerified : Prop :=
  (∀ (s : State) (i : InputName) (level : Level), s.part.power.powered = true → s.part.Noticed →
     let f := s.part.inputs.get i
     let sample := level == f.cfg.polarity
     (f.enabled = true → s.part.clock.timeBase % verifyTime f.cfg.code = 0 → f.sampledAt ≠ some s.part.clock.timeBase →
       (f.cfg.code ≠ 0 ∧ f.last ≠ some sample ∨ f.recognised = some sample) →
       exec (.inputRecognition i level) s = .next { s with part := { s.part with
         inputs := s.part.inputs.set i
           { f with wire := level, last := some sample, sampledAt := some s.part.clock.timeBase } } }) ∧
     ((f.enabled = false ∨ s.part.clock.timeBase % verifyTime f.cfg.code ≠ 0) →
       exec (.inputRecognition i level) s = .next { s with part := { s.part with
         inputs := s.part.inputs.set i { f with wire := level } } })) ∧
  (∀ (s : State) (i : InputName) (active : Bool), s.part.Recognises i active → s.part.Noticed →
     (i = .wrapSide ∨ active = false ∧ switchable i = false ∧ (i = .estop ∨ s.part.engine.motion ≠ .backout)) →
     exec (.inputRecognition i (s.part.levelOf i active)) s =
       .next { s with part := { s.part with inputs := s.part.recognised i active } }) ∧
  (∀ (s : State) (i : InputName) (source : Source) (reason : Reason), s.part.Recognises i true →
     (i, source, reason) ∈ ([(.estop, .inputs, .estop), (.azFinPos, .azAxis, .finalLimit),
       (.azFinNeg, .azAxis, .finalLimit), (.elFinHigh, .elAxis, .finalLimit), (.elFinLow, .elAxis, .finalLimit)] :
       List (InputName × Source × Reason)) →
     let e := s.part.engine
     let rests : Bool := e.motion == .tripped || e.motion == .parked || e.motion == .dormant
     ∃ q, exec (.inputRecognition i (s.part.inputs.get i).cfg.polarity) s = .next { s with part := q } ∧
       q.inputs = s.part.recognised i true ∧
       q.faults = s.part.faults.record
         { source := source, reason := reason, entry := s.part.list.current, az := e.az.actual, el := e.el.actual }
         s.part.stamp ∧
       q.engine.motion = (if rests then e.motion else .tripped) ∧
       (rests = false → q.engine.target = none ∧ q.engine.az.velocity = 0 ∧ q.engine.el.velocity = 0 ∧
         q.engine.az.demand = e.az.actual.getD e.az.demand ∧ q.engine.el.demand = e.el.actual.getD e.el.demand) ∧
       q.runner.state = (if s.part.runner.state = .idle then .idle else .held .trip) ∧
       q.runner.windResume = false ∧ (s.part.runner.state ≠ .idle → q.runner.ctx = RunCtx.blank) ∧
       q.power = s.part.power ∧ q.clock = s.part.clock ∧ q.limits = s.part.limits ∧ q.wind = s.part.wind ∧
       q.line = s.part.line ∧ q.engine.cfg = e.cfg) ∧
  (∀ (s : State) (i : InputName) (x : Axis) (side : Side), s.part.Recognises i true → s.part.Noticed →
     (i, x, side) ∈ ([(.azPrePos, .az, .pos), (.azPreNeg, .az, .neg), (.elPreHigh, .el, .pos), (.elPreLow, .el, .neg)] :
       List (InputName × Axis × Side)) →
     let e := s.part.engine
     let act : Instr := .inputRecognition i (s.part.inputs.get i).cfg.polarity
     let noted : Part := { s.part with inputs := s.part.recognised i true }
     let limit : Report :=
       { source := if x = .az then .azAxis else .elAxis, reason := .preLimit, entry := s.part.list.current,
         az := e.az.actual, el := e.el.actual }
     let told : Part := { noted with faults := s.part.faults.record limit s.part.stamp }
     let free (y : AxisState) : AxisState := { y with captured := false, profile := none }
     (e.motion ∈ [.stopping, .ready, .unparking, .stowed] → exec act s = .next { s with part := told }) ∧
     (e.motion ∈ [.backout, .unreferenced, .waking, .parked, .tripped, .dormant] →
       exec act s = .next { s with part := noted }) ∧
     (∀ t, e.motion ∈ [.slewing, .settling, .tracking, .keyhole] → e.target = some t →
       (s.part.still → s.part.wind.hold = false) →
       ∃ q, exec act s = .next { s with part := q } ∧ s.part.StoppedFrom q ∧ q.guide.allowed = false ∧
         q.faults = told.faults ∧ q.inputs = told.inputs ∧ q.wind = s.part.wind ∧ q.power = s.part.power ∧
         q.clock = s.part.clock ∧ q.line = s.part.line ∧
         (s.part.onEntry = false → q.runner = s.part.runner ∧ (s.part.model.pending = false → q.list = s.part.list)) ∧
         (∀ n, t.given.origin = .goto → t.given.record = some n → s.part.onEntry = false →
           q.log = (s.part.keyholeAdded n).log.change n (fun r => r.close .preLimit s.part.stamp)) ∧
         (t.given.record = none → q.log = s.part.log) ∧
         (∀ n id, t.given.origin = .list id → t.given.record = some n → s.part.runner.state.working = true →
           s.part.runner.ctx.record = some n → s.part.runner.ctx.id = some id →
           (s.part.keyholeAdded n).Closed q n id .preLimit ∧ s.part.WentOn q)) ∧
     (e.motion = .parking → e.target = none → e.passage = none → s.part.model.pending = false → e.az.velocity ≠ 0 →
       s.part.runner.state.working = false →
       exec act s = .next { s with part := { told with engine := { e with
         motion := .stopping, request := none, arrivedAt := none, az := free e.az, el := free e.el } } }) ∧
     (∀ n id w, e.motion = .parking → e.target = none → e.passage = none → (s.part.still → s.part.wind.hold = false) →
       s.part.runner.state.working = true → s.part.runner.ctx.record = some n → s.part.runner.ctx.id = some id →
       s.part.list.find id = some w → w.body = .park →
       ∃ q, exec act s = .next { s with part := q } ∧ s.part.StoppedFrom q ∧ s.part.Closed q n id .preLimit ∧
         s.part.WentOn q ∧ q.faults = told.faults ∧ q.inputs = told.inputs) ∧
     (e.motion = .stowing →
       (¬s.part.still → exec act s = .next { s with part := { told with engine := { e with
         halting := true, az := free e.az, el := free e.el } } }) ∧
       (s.part.still → exec act s = .next { s with part := { told with engine := { e with
         motion := .stowed, halting := false, az := free e.az, el := free e.el } } })) ∧
     (∀ d : Search, let y := match x with
        | .az => e.az
        | .el => e.el
      e.motion = .referencing → e.halting = false → y.search = some d → d.found = false → d.dir = side →
      d.reversed = true →
      ∃ q, exec act s = .next { s with part := q } ∧
        q.faults = told.faults.record { limit with reason := .noIndex, entry := none, az := none, el := none }
          s.part.stamp ∧
        q.engine.motion = .tripped ∧ q.engine.target = none ∧ q.engine.halting = false ∧ q.engine.mismatch = false ∧
        q.engine.az.referenced = false ∧ q.engine.el.referenced = false ∧
        q.engine.az.actual = none ∧ q.engine.el.actual = none ∧
        q.engine.az.search = none ∧ q.engine.el.search = none ∧
        q.engine.az.velocity = 0 ∧ q.engine.el.velocity = 0 ∧
        q.engine.az.demand = e.az.actual.getD e.az.demand ∧ q.engine.el.demand = e.el.actual.getD e.el.demand ∧
        q.runner.state = (if s.part.runner.state = .idle then .idle else .held .trip) ∧
        q.inputs = told.inputs ∧ q.power = s.part.power ∧ q.clock = s.part.clock ∧ q.line = s.part.line) ∧
     (∀ d : Search, let y := match x with
        | .az => e.az
        | .el => e.el
      e.motion = .referencing → e.halting = false → y.search = some d → d.found = false → d.dir = side →
      d.reversed = false →
      let turned := { y with search := some { d with dir := side.flip, reversed := true } }
      exec act s = .next { s with part := { told with engine := { e with
        az := if x = .az then turned else e.az, el := if x = .el then turned else e.el } } })) ∧
  (∀ (s : State) (i : InputName) (b : Backout), s.part.Recognises i false → s.part.Noticed →
     i ∈ ([.azPrePos, .azPreNeg, .azFinPos, .azFinNeg, .elPreHigh, .elPreLow, .elFinHigh, .elFinLow] : List InputName) →
     s.part.engine.motion = .backout → s.part.engine.backout = some b →
     let e := s.part.engine
     let act : Instr := .inputRecognition i (s.part.levelOf i false)
     let noted : Part := { s.part with inputs := s.part.recognised i false }
     let leaves := b.dir.flip
     let held := noted.active (finLimit b.axis leaves) = true ∨ noted.active (preLimit b.axis leaves) = true
     let axis (e : Engine) : AxisState := match b.axis with
       | .az => e.az
       | .el => e.el
     (held → exec act s = .next { s with part := noted }) ∧
     (¬held → (axis e).velocity ≠ 0 →
       exec act s = .next { s with part := { noted with engine := { e with halting := true } } }) ∧
     (¬held → (axis e).velocity = 0 → s.part.model.pending = false →
       ∃ q, exec act s = .next { s with part := q } ∧ noted.OnlyMoves q ∧ q.engine.motion = .tripped ∧
         q.engine.backout = none ∧ q.engine.halting = false ∧ q.engine.disturbed = false ∧
         (axis q.engine).velocity = 0 ∧ (axis q.engine).demand = (axis e).actual.getD (axis e).demand ∧
         (axis q.engine).referenced = (axis e).referenced)) ∧
  (∀ (s : State) (active : Bool), s.part.Recognises .dome active → s.part.Noticed →
     let run := s.part.runner
     let now := s.part.clock.timeBase
     let motion := s.part.engine.motion
     let noted (c : RunState × RunCtx) : Host.Outcome State Fault Refusal :=
       .next { s with part := { s.part with
         inputs := s.part.recognised .dome active, runner := { run with state := c.1, ctx := c.2 } } }
     let out := exec (.inputRecognition .dome (s.part.levelOf .dome active)) s
     (run.state.working = false → out = noted (run.state, run.ctx)) ∧
     (active = false → run.state.working = true → s.part.trackedOnce = true →
       (run.ctx.domeFrom.isSome = true ∨ 0 < run.domeWait) →
       out = noted (run.state, { run.ctx with
         domeFrom := some (run.ctx.domeFrom.getD now), accum := s.part.dwellSoFar, countFrom := none })) ∧
     (active = false → run.state = .acquiring → s.part.trackedOnce = false → out = noted (run.state, run.ctx)) ∧
     (active = true → run.state = .acquiring → run.ctx.domeFrom = none → out = noted (run.state, run.ctx)) ∧
     (∀ start, active = true → run.state.working = true → run.ctx.domeFrom = some start →
       (s.part.onEntry = true → motion = .tracking ∨ motion = .keyhole →
         out = noted (.observing, { run.ctx with
           domeFrom := none, observed := true, countFrom := if motion = .tracking then some now else none })) ∧
       (motion ≠ .tracking → motion ≠ .keyhole →
         out = noted (run.state, { run.ctx with
           domeFrom := none, observed := run.ctx.observed || s.part.trackedOnce }))))

/-- A wind hold starts when WIND is recognised ACTIVE with none in force: the flag and the cause WIND are set and the timer
stands (R149, R150). In READY, SLEWING, SETTLING, TRACKING and KEYHOLE the engine enters STOWING from the demands and
velocities it has, with no target; a GOTO record closes STOWED with its keyhole time, and a pending activation is made
(R24, R45, R66, R151). In every other state it carries on (R35, R151). A running runner closes a worked entry STOWED and is
HELD, reason WIND, to be resumed, but for a PARK entry, which runs on; an IDLE or HELD one stays (R119).
While the hold lasts, WIND recognised ACTIVE stops the timer, and recognised INACTIVE starts it again from this instant, which
ends the hold at once with a release time of 0 (R152); with no hold in force INACTIVE changes nothing.
WIND_HOLD_END: before the timer has run for the release time nothing happens; then the hold ends and the timer stops: a STOWED
engine is READY where it stood, a STOWING one comes to rest by STOPPING, or is READY at once when nothing moves (log 67), and
any other state stays; then a runner in HELD, reason WIND, resumes and takes up the head where R119 and the checks of R98
let it (R35, R98, R119, R152). The entry into STOWING and the resuming are stated outside a restart. -/
def Obligations.WindHoldStartsAndEnds : Prop :=
  (∀ s : State, s.part.Recognises .wind true → s.part.Noticed →
     let act : Instr := .inputRecognition .wind s.part.inputs.wind.cfg.polarity
     let noted : Part := { s.part with inputs := s.part.recognised .wind true }
     let e := s.part.engine
     let run := s.part.runner
     let begun : Wind := { s.part.wind with hold := true, timer := none }
     let alarmed : Alerts := { s.part.alerts with wind := true }
     let moves : Bool := [Motion.ready, .slewing, .settling, .tracking, .keyhole].contains e.motion
     (s.part.wind.hold = true → exec act s = .next { s with part := { noted with wind := { s.part.wind with timer := none } } }) ∧
     (s.part.wind.hold = false → moves = true → s.part.power.restarting = false →
       ∃ q, exec act s = .next { s with part := q } ∧ noted.HoldTaken q begun .stowing ∧ q.guide.allowed = false) ∧
     (s.part.wind.hold = false → moves = false →
       ((run.state.working = false ∨ s.part.parkCurrent = true) →
         exec act s = .next { s with part := { noted with
           wind := begun, alerts := alarmed, runner := s.part.heldByWind } }) ∧
       (∀ n id, run.state.working = true → s.part.parkCurrent = false → run.ctx.id = some id →
         run.ctx.record = some n → e.target = none →
         ∃ q, exec act s = .next { s with part := q } ∧ noted.EntryStowed q n id ∧
           q.engine = { e with request := none } ∧ q.wind = begun ∧ q.alerts = alarmed ∧ q.faults = s.part.faults ∧
           q.inputs = noted.inputs ∧ q.power = s.part.power ∧ q.clock = s.part.clock ∧ q.line = s.part.line))) ∧
  (∀ s : State, s.part.Recognises .wind false → s.part.Noticed →
     let act : Instr := .inputRecognition .wind (s.part.levelOf .wind false)
     let noted : Part := { s.part with inputs := s.part.recognised .wind false }
     let e := s.part.engine
     (s.part.wind.hold = false → exec act s = .next { s with part := noted }) ∧
     (s.part.wind.hold = true → 0 < s.part.wind.release →
       exec act s = .next { s with part := { noted with
         wind := { s.part.wind with timer := some s.part.clock.timeBase } } }) ∧
     (s.part.wind.hold = true → s.part.wind.release = 0 → s.part.power.restarting = false →
       (e.motion = .stowed ∨ e.motion = .stowing → e.request = none ∧ e.passage = none) →
       (¬noted.holdOver.resumes → exec act s = .next { s with part := noted.holdOver }) ∧
       (noted.holdOver.resumes → ∃ w, step noted.holdOver.startingUp = .next { part := w, pending := [] } ∧
         exec act s = .next { s with part := w }))) ∧
  (∀ (s : State) (b : Ms), s.part.power.powered = true → s.part.Noticed → s.part.wind.hold = true →
     s.part.wind.timer = some b →
     let e := s.part.engine
     let lifted := s.part.holdOver
     (s.part.clock.timeBase < b + s.part.wind.release → exec .windHoldEnd s = .next s) ∧
     (b + s.part.wind.release ≤ s.part.clock.timeBase → s.part.power.restarting = false →
       (e.motion = .stowed ∨ e.motion = .stowing → e.request = none ∧ e.passage = none) →
       (¬lifted.resumes → exec .windHoldEnd s = .next { s with part := lifted }) ∧
       (lifted.resumes → ∃ w, step lifted.startingUp = .next { part := w, pending := [] } ∧
         exec .windHoldEnd s = .next { s with part := w })))

/-! ### The List Runner and the Planner (07) -/

/-- DWELL_COMPLETE: once the accumulated dwell reaches the entry's dwell, the entry closes COMPLETE and its record is
detached from the target the engine goes on with (R111, R112). GIVE_UP: a worked entry, in ACQUIRING or OBSERVING, whose
give-up the clock has reached closes TIMED_OUT; after arrival the engine coasts on its target in whatever state it is, with
the record detached; before arrival it is asked to stop (R113). DOME_TIMEOUT: an absence of DOME that has lasted the dome
wait, in ACQUIRING or OBSERVING, is reported with the entry and the positions, the entry closes DOME_TIMEOUT, and the engine
is asked to stop (R110). Asked to stop, an engine in SLEWING, SETTLING, TRACKING, KEYHOLE or PARKING comes to rest by STOPPING
with no target, READY at once when nothing moves; in any other state, where it has no target, it goes on with the request
that waited dropped (R37, R110, R113; log 67). The keyhole time of a passage is added to the record first (R66). Stated where a
stop that is at rest finds no hold in force. Each time the runner then is HELD, reason HOST, when hold-after-current was set;
else no entry is current, so that what the Night List takes next finds it closed, and the next head is taken up by a step of
its own (R95, R112; log 55). -/
def Obligations.EntriesClose : Prop :=
  ∀ (s : State) (e : Entry) (n : Nat), s.part.power.powered = true →
    s.part.runner.ctx.id = some e.id → s.part.list.find e.id = some e → s.part.runner.ctx.record = some n →
    (∀ t, s.part.engine.target = some t → t.given.record = some n ∧ t.given.origin = .list e.id) →
    (s.part.engine.target = none → s.part.engine.passage = none) →
    let en := s.part.engine
    let closed (q : Part) (o : Ending) : Prop :=
      (s.part.keyholeAdded n).Closed q n e.id o ∧ s.part.WentOn q ∧ q.alerts = s.part.alerts ∧ q.power = s.part.power ∧
      q.clock = s.part.clock ∧ q.inputs = s.part.inputs ∧ q.wind = s.part.wind ∧ q.limits = s.part.limits ∧
      q.line = s.part.line
    let coasts (q : Part) : Prop := q.engine = { en with
      target := en.target.map fun t => { t with given := { t.given with record := none } }, request := none }
    let asked (q : Part) : Prop :=
      (en.motion ∈ [.slewing, .settling, .tracking, .keyhole, .parking] → s.part.StoppedFrom q) ∧
      (en.motion ∉ [.slewing, .settling, .tracking, .keyhole, .parking] → en.target = none →
        q.engine = { en with request := none })
    (s.part.runner.state = .observing → e.body.dwell ≤ s.part.dwellSoFar →
      ∃ q, exec .dwellComplete s = .next { s with part := q } ∧ closed q .complete ∧ coasts q ∧
        q.faults = s.part.faults) ∧
    (∀ g r, s.part.runner.state.working = true → e.opts.giveUp = some g → s.part.clock.reading = some r → g ≤ r →
      (∀ t, en.target = some t → t.arrived = true →
        ∃ q, exec .giveUp s = .next { s with part := q } ∧ closed q .timedOut ∧ coasts q ∧ q.faults = s.part.faults) ∧
      ((∀ t, en.target = some t → t.arrived = false) → (s.part.still → s.part.wind.hold = false) →
        ∃ q, exec .giveUp s = .next { s with part := q } ∧ closed q .timedOut ∧ asked q ∧ q.faults = s.part.faults)) ∧
    (∀ b, s.part.runner.state.working = true → s.part.runner.ctx.domeFrom = some b →
      b + s.part.runner.domeWait ≤ s.part.clock.timeBase → (s.part.still → s.part.wind.hold = false) →
      ∃ q, exec .domeTimeout s = .next { s with part := q } ∧ closed q .domeTimeout ∧ asked q ∧
        q.faults = s.part.faults.record
          { source := .list, reason := .domeTimeout, entry := some e.id, az := en.az.actual, el := en.el.actual }
          s.part.stamp)

/-- START_INSTANT: at the start instant of a waiting entry with a target the tests of R107 are made with a new estimate
(R105, R106). When they pass and nothing refuses the request, the entry is current, an open record of it stands at the next
sequence number and the runner is ACQUIRING (R109). In READY, STOPPING, SETTLING, TRACKING and KEYHOLE the engine slews from its
demands to the entry's target with no offsets (R31); in SLEWING it is redirected, its profile and its offsets untouched (R44); a
GOTO record that is so left closes ENDED when its target had reached TRACKING and is superseded by the entry's else, the
keyhole time of a passage added to it first (R44, R45, R66). A PARKED engine enters UNPARKING with both drives on where the axes
stand and its wait from this instant, and an UNPARKING one goes on; both keep the request, and the record has no started time
yet (R40, R109). That a profile is carried over a redirect is the model's reading (log 18).
During the stop of a restart the same happens from READY or STOPPING, but the slew is at once brought to rest again, by STOPPING
or in READY, the record staying open with its start (R54, R175; log 14), and a GOTO record that the stop had left open closes
RESTARTED (log 75).
When a test fails, the entry closes with the outcome of that test and leaves, and the runner goes on at once, in a restart
too: with hold-after-current set it is HELD; else over an empty list it is EMPTY, with the cause LIST_END, and before a head
whose id an enabled slot holds it is in INTERCEPT, with its cause (R91, R101, R107, R108, R112, R175). -/
def Obligations.StartInstantStarts : Prop :=
  ∀ (s : State) (e : Entry) (c : Coords) (x : SiteTime) (r : SiteTime), s.part.power.powered = true →
    s.part.runner.state = .waiting → s.part.runner.ctx.startAt = some x →
    s.part.clock.reading = some r → x ≤ r → s.part.runner.ctx.id = some e.id → s.part.list.find e.id = some e →
    e.coords = some c → s.part.log.Ok →
    let en := s.part.engine
    let n := s.part.log.next
    let est := estimateFrom s.part c e.body.dwell (e.opts.wrap.getD .near) s.part.demands r
    let o := (checkEntry s.part e c s.part.engine.az.demand (r + (est : Int))).outcome
    (o = .run → e.opts.giveUp.any (fun g => decide (g ≤ r)) = false → s.part.countsTripped = false →
      s.part.wind.hold = false → s.part.model.pending = false →
      (s.part.power.restarting = false →
        (en.motion ∈ [.ready, .stopping, .settling, .tracking, .keyhole] →
          ∃ q, exec .startInstant s = .next { s with part := q } ∧ s.part.Begun q e c est) ∧
        (en.motion = .slewing → ∃ q, exec .startInstant s = .next { s with part := q } ∧ s.part.Redirected q e c est) ∧
        (∀ q t m y, exec .startInstant s = .next { s with part := q } →
          en.motion ∈ [.slewing, .settling, .tracking, .keyhole] → en.target = some t → t.given.origin = .goto →
          t.given.record = some m → (s.part.keyholeAdded m).log.find m = some y → y.isOpen = true →
          s.part.log.records.length < 64 →
          q.log.find m = some (if t.reached then { y with ended := some s.part.stamp, outcome := some .ended }
            else { y with supersededBy := some n }))) ∧
      (en.target = none → s.part.power.restarting = false →
        let record := RunRec.fresh n (.list e.id) e.body.kind
        let on (a : AxisState) : AxisState :=
          { a with demand := a.actual.getD a.demand, velocity := 0, profile := none, captured := false }
        (en.motion = .parked → ∃ q, exec .startInstant s = .next { s with part := q } ∧ s.part.Opened q e record ∧
          q.engine = { en with
            motion := .unparking, unparkAt := some s.part.clock.timeBase, request := some (e.handed c est n),
            az := on en.az, el := on en.el }) ∧
        (en.motion = .unparking → ∃ q, exec .startInstant s = .next { s with part := q } ∧ s.part.Opened q e record ∧
          q.engine = { en with request := some (e.handed c est n) })) ∧
      (s.part.power.restarting = true → en.motion = .ready ∨ en.motion = .stopping → en.target = none →
        en.passage = none →
        ∃ q side, exec .startInstant s = .next { s with part := q } ∧ s.part.Opened q e (s.part.startedRecord e side) ∧
          s.part.StoppedFrom q ∧
          ∀ m y, s.part.log.find m = some y → y.isOpen = true → (s.part.log.records.filter RunRec.isOpen).length ≤ 1 →
            s.part.log.records.length < 64 →
            q.log.find m = some { y with ended := some s.part.stamp, outcome := some .restarted })) ∧
    (∀ skip w, o.skip = some skip → s.part.goneOnTo e.id = some w →
      ∃ q, exec .startInstant s = .next { s with part := q } ∧ s.part.Skipped q e skip w)

/-- PLAN_ENTRY_DONE: only the entry at the cursor has its record rewritten; a MARK is planned RUN at the origin, every entry
behind a PARK is CURRENT with no prediction, and an entry with a target that fails a test of R107 has the outcome of that
test at the origin, which it leaves as it was; an AXIS entry that passes them is planned RUN from its arrival or its not-before
to the end of its dwell, where the next entry's origin is; a PARK is planned RUN to the estimate of its park, from the
origin, or, when it is current, from its started time and the present demands. The cursor moves on, or the pass ends with
the list; the cause PLAN is set exactly when a record that was RUN has another outcome (R120, R121, R122; that an entry is
evaluated at the instant its planning ends is the model's choice, log 33).
What a request for a pass does (R120, R121): with the clock unset nothing; with it set every plan record is STALE with
its prediction kept, and a pass stands at the first entry with the present reading and demands as its origin, or there is
none over an empty list (log 33). -/
def Obligations.PassesArePlanned : Prop :=
  (∀ (s : State) (ps : Pass) (e : Entry), s.part.power.powered = true → s.part.Noticed →
     s.part.planner.pass = some ps → 1 ≤ ps.cursor → s.part.list.entries[ps.cursor - 1]? = some e →
     let moved (q : Pass) : Option Pass :=
       if ps.cursor < s.part.list.entries.length then
         some { q with cursor := ps.cursor + 1, began := s.part.clock.timeBase }
       else none
     let after (r : PlanRec) (q : Pass) : Part := { s.part with
       list := { s.part.list with entries := s.part.list.entries.set (ps.cursor - 1) { e with plan := r } },
       planner := { pass := moved q },
       alerts := { s.part.alerts with plan := s.part.alerts.plan ||
         (e.plan.outcome == some .run && match r.outcome with
           | some o => o != .run
           | none => false) } }
     let idle : PlanRec :=
       { current := true, start := none, finish := none, outcome := none, side := none, keyhole := false,
         altitude := none }
     let atOrigin (o : Predicted) : PlanRec :=
       { idle with start := some ps.origin, finish := some ps.origin, outcome := some o }
     (ps.behindPark = true → exec .planEntryDone s = .next { s with part := after idle ps }) ∧
     (ps.behindPark = false → e.body = .mark →
       exec .planEntryDone s = .next { s with part := after (atOrigin .run) ps }) ∧
     (∀ c o, ps.behindPark = false → e.coords = some c → s.part.list.current ≠ some e.id →
       (let est := estimateFrom s.part c e.body.dwell (e.opts.wrap.getD .near) { az := ps.az, el := ps.el } ps.origin
        let start := match e.opts.notBefore with
          | some nb => max (ps.origin + (est : Int)) nb
          | none => ps.origin + (est : Int)
        (checkEntry s.part e c ps.az start).outcome = o) → o ≠ .run →
       exec .planEntryDone s = .next { s with part := after (atOrigin o) ps }) ∧
     (∀ (az el : Mas) (w : Ms), ps.behindPark = false → e.body = .axis az el w → e.opts.giveUp = none →
       s.part.list.current ≠ some e.id →
       let est := estimateFrom s.part (.axis az el) w (e.opts.wrap.getD .near) { az := ps.az, el := ps.el } ps.origin
       let start := match e.opts.notBefore with
         | some nb => max (ps.origin + (est : Int)) nb
         | none => ps.origin + (est : Int)
       (checkEntry s.part e (.axis az el) ps.az start).outcome = .run →
       let r : PlanRec := { idle with
         start := some start, finish := some (start + (w : Int)), outcome := some .run,
         side := some (if 0 ≤ az then .pos else .neg) }
       let on : Pass := { ps with origin := start + (w : Int), az := az, el := el }
       exec .planEntryDone s = .next { s with part := after r on }) ∧
     (ps.behindPark = false → e.body = .park →
       let c := s.part.engine.cfg
       let park : AxisPair :=
         { az := c.parkAz, el := if c.parkEl < c.elLo then c.elLo else if c.elHi < c.parkEl then c.elHi else c.parkEl }
       let there (x : AxisPair) : Ms := slewEstimate c x park
       let on : Pass := { ps with behindPark := true }
       (s.part.list.current ≠ some e.id →
         let r : PlanRec := { idle with
           start := some ps.origin, outcome := some .run,
           finish := some (ps.origin + (there { az := ps.az, el := ps.el } : Int)) }
         exec .planEntryDone s = .next { s with part := after r on }) ∧
       (∀ (n : Nat) (w : RunRec) (x now : SiteTime), s.part.list.current = some e.id →
         s.part.runner.ctx.record = some n → s.part.log.find n = some w → w.started = some (.site x) →
         s.part.clock.reading = some now →
         let r : PlanRec := { idle with
           start := some x, outcome := some .run,
           finish := some (now + (there { az := s.part.engine.az.demand, el := s.part.engine.el.demand } : Int)) }
         exec .planEntryDone s = .next { s with part := after r on }))) ∧
  (∀ p : Part,
     let first (t : SiteTime) : Pass :=
       { cursor := 1, began := p.clock.timeBase, origin := t, az := p.engine.az.demand, el := p.engine.el.demand,
         behindPark := false }
     (p.clock.isSet = false → requestPass p = p) ∧
     ∀ t, p.clock.reading = some t → requestPass p = { p with
       list := { p.list with entries := p.list.entries.map fun e => { e with plan := { e.plan with current := false } } },
       planner := { pass := if p.list.entries = [] then none else some (first t) } })

/-! ### The restart (11) -/

/-- RESTART_REINIT, with the engine at rest and no limit recognised ACTIVE: the open record closes RESTARTED, a worked
entry's with the accumulated dwell; every block takes its RSET values, and the line takes messages again; the clock, the
site, the tables, the configuration, the store and a wait or a write in progress are kept (R54, R96, R124, R154, R162, R166,
R175, R180). READY, UNPARKING and STOWED come out READY, PARKED, UNREFERENCED, WAKING and DORMANT as they were, and TRIPPED
PARKED, or where an axis is not referenced WAKING during the encoder wait and UNREFERENCED after it (R54, R145, R171). An
input still recognised ACTIVE is delivered again: ESTOP is reported into the emptied table and trips the engine as in R49,
WIND forms a new hold, which stows an engine that is READY (R136, R149, R151, R175 step 5; ESTOP before WIND: log 37). An
axis without an actual position keeps its demand when ESTOP takes its drive off (log 34), and one beyond its soft limits
takes its actual position as it is (log 62). RSET: its reply goes out with the part as it stands, then the restart begins,
and every later frame is discarded until its end: a READY engine at rest stays at rest; from a track the engine goes to
STOPPING with no target and its run record still open; and a runner in OBSERVING is ACQUIRING with the dwell it has (R54,
R96, R175). That a track with nothing moving is READY at once is the model's reading (log 67). -/
def Obligations.RestartBeginsAndEnds : Prop :=
  (∀ s : State, s.part.power.powered = true → s.part.power.restarting = true →
     s.part.engine.motion ∈ [.ready, .unparking, .stowed, .parked, .unreferenced, .waking, .dormant, .tripped] →
     s.part.engine.az.velocity = 0 → s.part.engine.el.velocity = 0 → s.part.model.pending = false →
     s.part.engine.passage = none →
     (∀ i, i ∉ [.estop, .wrapSide, .wind, .dome] → s.part.active i = false) →
     let e := s.part.engine
     let stopped := s.part.active .estop
     let blowing := s.part.active .wind
     let rests : Motion := match e.motion with
       | .ready | .unparking | .stowed => .ready
       | .tripped =>
         if s.part.referenced then .parked else if s.part.power.wait.isSome then .waking else .unreferenced
       | m => m
     let trips : Bool := stopped && rests != .parked && rests != .dormant
     ∃ q, exec .restartReinit s = .next { s with part := q } ∧
       q.power = { s.part.power with restarting := false } ∧
       q.lastAz = none ∧ q.list = State.reset.part.list ∧ q.planner.pass = none ∧
       q.runner = { State.reset.part.runner with domeWait := s.part.runner.domeWait } ∧
       q.guide = { State.reset.part.guide with
         enable := s.part.guide.enable, rate := s.part.guide.rate, step := s.part.guide.step } ∧
       q.faults =
         (if stopped then
           State.reset.part.faults.record
             { source := .inputs, reason := .estop, entry := none, az := e.az.actual, el := e.el.actual } s.part.stamp
         else State.reset.part.faults) ∧
       q.alerts = { State.reset.part.alerts with wind := blowing } ∧
       q.wind = { s.part.wind with hold := blowing, timer := none } ∧
       q.engine.motion = (if trips then .tripped else if blowing ∧ rests = .ready then .stowing else rests) ∧
       q.engine.target = none ∧ q.engine.offArc = 0 ∧ q.engine.offEl = 0 ∧
       q.engine.az.velocity = 0 ∧ q.engine.el.velocity = 0 ∧
       q.engine.cfg = e.cfg ∧ q.engine.az.referenced = e.az.referenced ∧ q.engine.el.referenced = e.el.referenced ∧
       q.engine.az.demand = (if trips then e.az.actual.getD e.az.demand else e.az.demand) ∧
       q.engine.el.demand = (if trips then e.el.actual.getD e.el.demand else e.el.demand) ∧
       q.clock = s.part.clock ∧ q.site = s.part.site ∧ q.limits = s.part.limits ∧ q.inputs = s.part.inputs ∧
       q.model = s.part.model ∧
       q.line = { s.part.line with
         a := { s.part.line.a with buffer := [], muted := false },
         b := { s.part.line.b with buffer := [], muted := false },
         locksA := [], locksB := [], last := none, msgErr := false, bcast := false } ∧
       q.log.next = s.part.log.next ∧
       (∀ r, s.part.log.Ok → s.part.log.records.find? RunRec.isOpen = some r →
         q.log.find r.seq = some { r with
           dwell := if s.part.runner.ctx.record = some r.seq then s.part.dwellSoFar else r.dwell,
           ended := some s.part.stamp, outcome := some .restarted }) ∧
       (s.part.log.records.find? RunRec.isOpen = none → q.log = s.part.log)) ∧
  (∀ (s : State) (ln : Line), Takes s ln .rset →
     let power := { s.part.power with restarting := true }
     let runner := { s.part.runner with
       state := if s.part.runner.state = .observing then .acquiring else s.part.runner.state,
       ctx := { s.part.runner.ctx with accum := s.part.dwellSoFar, countFrom := none } }
     (s.part.engine.motion = .ready →
       let told := (s.part.heard ln).answered ln .rset .ok []
       exec (.rset (ownFrame ln) []) s = .next { s with part := { told with power := power, runner := runner } }) ∧
     (s.part.engine.motion = .tracking → s.part.engine.passage = none → s.part.model.pending = false →
       s.part.wind.hold = false →
       ∃ q, exec (.rset (ownFrame ln) []) s = .next { s with part := q } ∧
         q.power = power ∧ q.runner = runner ∧ q.engine.target = none ∧
         q.engine.motion =
           (if s.part.engine.az.velocity = 0 ∧ s.part.engine.el.velocity = 0 then .ready else .stopping) ∧
         q.engine.az.demand = s.part.engine.az.demand ∧ q.engine.az.velocity = s.part.engine.az.velocity ∧
         q.engine.el.demand = s.part.engine.el.demand ∧ q.engine.el.velocity = s.part.engine.el.velocity ∧
         q.guide.allowed = false ∧ q.log = s.part.log ∧ q.list = s.part.list ∧ q.faults = s.part.faults ∧
         q.alerts = s.part.alerts ∧ q.clock = s.part.clock ∧ q.inputs = s.part.inputs ∧ q.wind = s.part.wind ∧
         q.limits = s.part.limits ∧ q.model = s.part.model ∧ q.planner = s.part.planner ∧
         Replies q ln .rset .ok []))

/-! ### The lines (12) -/

/-- Characters. While a reply is sent on the line nothing is received; a `>` starts a frame afresh; outside a frame every
other character is ignored; in a frame in time a character its place allows is kept, one it does not allow discards the
frame, and so does the 121st without a CR; and the CR that completes a frame for the part does what the command of that frame
does (R181, R182). The other events of one line. REPLY_COMPLETE ends a reply whose characters have had their time, with
nothing else changed; FRAME_GAP_TIMEOUT discards a partial frame whose latest character is more than 20 ms old;
FRAME_REJECTED discards a partial frame; a frame for another address is ignored, and only its own buffer is empty after it.
None changes a flag, and none is answered (R181, R182, R184; the rows of a rejected and a foreign frame as commands of their
own, log 48; a reply as one piece until its end, log 36). -/
def Obligations.CharactersFormFrames : Prop :=
  (∀ (s : State) (ln : Line) (ch : Octet), s.part.power.powered = true → s.part.Noticed →
     let l := s.part.line.get ln
     let onLine (x : LineState) : State := { s with part := { s.part with line := s.part.line.set ln x } }
     let with_ (b : List Octet) : State := onLine { l with buffer := b, charAt := s.part.clock.timeBase }
     let dropped : State := onLine { l with buffer := [] }
     (l.reply ≠ none → exec (.characterReceived ln ch) s = .next s) ∧
     (s.part.power.loaded = true → l.reply = none →
       exec (.characterReceived ln 62) s = .next (with_ [62]) ∧
       (l.buffer = [] → ch ≠ 62 → exec (.characterReceived ln ch) s = .next s) ∧
       (l.buffer ≠ [] → ch ≠ 62 → s.part.clock.timeBase - l.charAt ≤ 20 →
         (ch ≠ 13 → l.buffer.length < 120 → placeAfter (l.buffer ++ [ch]) ≠ none →
           exec (.characterReceived ln ch) s = .next (with_ (l.buffer ++ [ch]))) ∧
         (ch ≠ 13 → (120 ≤ l.buffer.length ∨ placeAfter (l.buffer ++ [ch]) = none) →
           exec (.characterReceived ln ch) s = .next dropped) ∧
         (ch = 13 → readFrame l.buffer = none → exec (.characterReceived ln ch) s = .next dropped) ∧
         (∀ f c, ch = 13 → readFrame l.buffer = some f → f.address = s.part.line.address.toNat →
           f.address ≠ 31 → frameOf c = some (nameOf f.letters, ownFrame ln, f.fields.map readField) →
           exec (.characterReceived ln ch) s = exec c s)))) ∧
  (∀ (s : State) (ln : Line), s.part.power.powered = true → s.part.Noticed →
     let emptied : Part := { s.part with line := s.part.line.set ln { s.part.line.get ln with buffer := [] } }
     (∀ r, (s.part.line.get ln).reply = some r → r.since + r.airTime ≤ s.part.clock.timeBase →
       exec (.replyComplete ln) s = .next { s with part := { s.part with
         line := s.part.line.set ln { s.part.line.get ln with reply := none } } }) ∧
     ((s.part.line.get ln).buffer ≠ [] → 20 < s.part.clock.timeBase - (s.part.line.get ln).charAt →
       exec (.frameGapTimeout ln) s = .next { s with part := emptied }) ∧
     (s.part.power.loaded = true → (s.part.line.get ln).reply = none →
       exec (.frameRejected ln) s = .next { s with part := emptied } ∧
       ∀ a : BitVec 5, a ≠ s.part.line.address → a ≠ 31 →
         exec (.frameOtherAddress ln a) s = .next { s with part := emptied }))

/-- A host frame reads back as what it was written from: its address, its name and every field, whatever their values
(R181). -/
def Obligations.FramesReadBack : Prop :=
  ∀ (a : BitVec 5) (m : MsgName) (fs : List Field), fs.all WellFormed.fieldOk = true →
    ∃ f, readFrame (hostFrame a m fs) = some f ∧ f.address = a.toNat ∧ nameOf f.letters = .known m ∧
      f.fields.map readField = fs

/-- A line that does not hear leaves a message as nothing: before the load has ended and while a reply is sent on its line
the frame changes nothing, and during a restart it is discarded with its buffer (R169, R175, R181).
An unpowered part takes nothing but POWER_ON (R177).
Heard but turned away: a name outside the index is answered UNKNOWN, a broadcast outside the list of R183 is not executed,
with outcome STATE and no reply, and a name locked on its line is answered LOCKED; in each case nothing but the lines
changes (R182, R183, R189). -/
def Obligations.NothingHeardNothingDone : Prop :=
  (∀ (c : Instr) (s : State) (name : Name) (a : Arrival) (fs : List Field), frameOf c = some (name, a, fs) →
     s.part.power.powered = true → s.part.Noticed →
     ((s.part.power.loaded = false ∨ (s.part.line.get a.line).reply ≠ none) → exec c s = .next s) ∧
     (s.part.power.loaded = true → (s.part.line.get a.line).reply = none → s.part.power.restarting = true →
       exec c s = .next { s with part := emptyBuffer a.line s.part })) ∧
  (∀ (c : Instr) (s : State), s.part.power.powered = false → (∀ a, c ≠ .powerOn a) → exec c s = .next s) ∧
  (∀ (s : State) (ln : Line) (fs : List Field), Hears s.part ln → s.part.Noticed → s.part.line.address ≠ 31 →
     let h := s.part.heard ln
     (∀ w, msgOf w = none → (s.part.line.get ln).muted = false →
       let flagged : LineIf := { h.line with
         msgErr := true, bcast := false,
         last := some { name := .unknown w, line := ln, cast := .addressed, result := .unknown } }
       let reply : Reply :=
         { address := s.part.line.address, name := .unknown w, result := .unknown,
           summary := summary { h with line := flagged } ln, fields := [], since := s.part.clock.timeBase }
       exec (.messageUnknown (ownFrame ln) w fs) s = .next { s with part := { h with
         line := flagged.set ln { h.line.get ln with reply := some reply } } }) ∧
     (∀ c m, frameOf c = some (.known m, { line := ln, cast := .broadcast }, fs) → MsgName.castable m = false →
       m ≠ .stat → m ≠ .last →
       exec c s = .next { s with part := { h with line := { h.line with
         msgErr := true, bcast := true,
         last := some { name := .known m, line := ln, cast := .broadcast, result := .state } } } }) ∧
     (∀ c m, frameOf c = some (.known m, ownFrame ln, fs) → s.part.line.isLocked ln m = true →
       (s.part.line.get ln).muted = false → m ≠ .stat → m ≠ .last →
       exec c s = .next { s with part := h.answered ln m .locked [] }))

/-- A refused message changes nothing of the blocks: whatever its name and fields, when its owner's outcome sets MSG_ERR the
part is as it was, but for a draft that a failing QADD or QSUB discards (R83, R84, R183). -/
def Obligations.RefusalsChangeNothing : Prop :=
  ∀ (m : MsgName) (ln : Line) (fs : List Field) (p : Part), (ownerOf m ln fs p).result.isErr = true →
    (ownerOf m ln fs p).part = p ∨
    ((m = .qadd ∨ m = .qsub) ∧ (ownerOf m ln fs p).part = { p with list := { p.list with draft := none } })

/-- The summary (R186): its sixteen flags at their bits, bit 15 first, formed from the part as it stands when the reply
begins; every reply, of a name in the index or not, carries it behind its outcome word, as four hexadecimal digits, the
most significant first. -/
def Obligations.SummaryBits : Prop :=
  ∀ (p : Part) (ln : Line),
    (∀ i : Nat, i < 16 → (summary p ln).getLsbD i = (match i with
      | 15 => p.line.msgErr
      | 14 => p.line.bcast
      | 13 => p.anyCause
      | 12 => p.engine.motion == .tripped || p.engine.motion == .backout
      | 11 => !(p.engine.az.referenced && p.engine.el.referenced)
      | 10 => !p.clock.isSet
      | 9 => p.wind.hold
      | 8 => p.model.pending
      | 7 => p.power.writing.isSome
      | 6 => (p.line.get ln.other).muted
      | 5 => p.runner.state ∈ [.empty, .waiting, .acquiring, .observing]
      | 4 => (match p.runner.state with
        | .intercept => true
        | .held _ => true
        | _ => false)
      | 3 => p.engine.motion ∈ [.referencing, .slewing, .settling, .keyhole, .stopping, .parking, .stowing, .backout]
      | 2 => p.engine.motion == .tracking
      | 1 => p.engine.motion == .parked || p.engine.motion == .dormant
      | _ => p.engine.disturbed)) ∧
    ∀ (n : Name) (r : Result) (out : List RField), (p.line.get ln).muted = false →
      let w := (summary p ln).toNat
      ∃ reply rest, ((sendReply n ln .addressed r out p).line.get ln).reply = some reply ∧
        reply.octets = [60] ++ addressDigits p.line.address ++ octets (Name.word n) ++ octets "," ++ octets r.word ++
          octets "," ++ [hexDigit (w / 4096 % 16), hexDigit (w / 256 % 16), hexDigit (w / 16 % 16), hexDigit (w % 16)] ++
          rest

/-! ### Queries: what they answer, and that they change nothing (R7, R10, R26, R52, R71, R76, R77, R90, R92, R123, R127,
R139, R161, R163, R167, R178, R187, R189) -/

/-- CLKQ, SITE and MQRY in all their forms that only read (R7, R8, R10, R19, R26). -/
def Obligations.ClockSiteModelQueries : Prop :=
  ∀ (s : State) (ln : Line), s.part.Noticed →
    let h := s.part.heard ln
    let m := s.part.model
    let terms (t : Terms) : List RField := [.num t.ia, .num t.ie, .num t.ca, .num t.np, .num t.an, .num t.ae, .num t.tf]
    let yes (b : Bool) : RField := .text (if b then "YES" else "NO")
    (Answers s.part ln .clkq →
      (∀ t, s.part.clock.reading = some t → s.part.clock.trim = none →
        Gives (.clkq (ownFrame ln) []) s ln .clkq .ok
          [.text "SET", .num s.part.clock.timeBase, .num t, .num (s.part.clock.sidereal t), .num s.part.clock.refTime,
           .num s.part.clock.refAngle, .num 0, .num 0] h) ∧
      (∀ t r, s.part.clock.reading = some t → s.part.clock.trim = some r →
        Gives (.clkq (ownFrame ln) []) s ln .clkq .ok
          [.text "SET", .num s.part.clock.timeBase, .num t, .num (s.part.clock.sidereal t), .num s.part.clock.refTime,
           .num s.part.clock.refAngle, .num r.delta,
           .num (10000 - ((s.part.clock.timeBase : Int) - (r.start : Int)))] h) ∧
      (s.part.clock.isSet = false →
        Gives (.clkq (ownFrame ln) []) s ln .clkq .ok
          [.text "UNSET", .num s.part.clock.timeBase, .absent, .absent, .absent, .absent, .num 0, .num 0] h)) ∧
    (Answers s.part ln .site →
      Gives (.site (ownFrame ln) []) s ln .site .ok [.num s.part.site.latitude, .num s.part.site.refraction] h) ∧
    (Answers s.part ln .mqry →
      Gives (.mqry (ownFrame ln) []) s ln .mqry .ok ([.num m.generation, yes m.pending] ++ terms m.active) h ∧
      Gives (.mqry (ownFrame ln) [.word "STAGED"]) s ln .mqry .ok
        ([.num m.generation, yes m.pending] ++ terms m.staged) h ∧
      ∀ a e : Int, 0 ≤ a → a ≤ 1295999999 → -324000000 ≤ e → e ≤ 324000000 →
        Gives (.mqry (ownFrame ln) [.word "AT", .num a, .num e]) s ln .mqry .ok
          [.num (azCorrection m.active a e), .num (elCorrection m.active a e),
           .num (a + azCorrection m.active a e), .num (e + elCorrection m.active a e)] h)

/-- POSQ, LIMQ, MASK,i and ZONE,n: the latest interval's values, the present target, the tables, and nothing changed
(R52, R69, R70, R71, R72, R76, R77; that a GOTO's origin and an absent target show their fields as absent ones is the
model's reading, log 20 and log 47; that an axis which searches, or backs out unreferenced, shows its relative demand is the
model's choice, log 73). -/
def Obligations.MotionAndLimitQueries : Prop :=
  ∀ (s : State) (ln : Line), s.part.Noticed →
    let h := s.part.heard ln
    let e := s.part.engine
    let yes (b : Bool) : RField := .text (if b then "YES" else "NO")
    let opt (x : Option Int) : RField := match x with
      | some n => .num n
      | none => .absent
    let head : List RField :=
      [.text e.motion.word, yes e.az.referenced, yes e.el.referenced, .num e.az.demand, .num e.el.demand,
       opt e.az.actual, opt e.el.actual, opt e.az.error, opt e.el.error]
    (Answers s.part ln .posq →
      (e.target = none →
        Gives (.posq (ownFrame ln) []) s ln .posq .ok
          (head ++ [.absent, .absent, .absent, .absent, .absent, .absent, .num e.offArc, .num e.offEl, .absent]) h) ∧
      (∀ t, e.target = some t →
        Gives (.posq (ownFrame ln) []) s ln .posq .ok
          (head ++ (match t.given.origin with
              | .list id => [.text "LIST", .num id]
              | .goto => [.text "GOTO", .absent])
            ++ [.text t.given.coords.kind.word, .num t.destAz, .num t.destEl, .text t.side.word, .num e.offArc,
                .num e.offEl]
            ++ [match t.given.record with
              | some n => .num n
              | none => .absent]) h)) ∧
    (Answers s.part ln .limq →
      (e.target = none → e.motion = .ready →
        Gives (.limq (ownFrame ln) []) s ln .limq .ok
          ([.absent, .absent, .absent, .absent, .absent, .absent, .absent, .absent]
            ++ (zonesAt s.part.limits { az := e.az.demand, el := e.el.demand }).map (fun n => .num n)) h) ∧
      (∀ (t : Target) (q : AxisPair), e.target = some t →
        (e.motion ∈ [.slewing, .settling] ∧ q = { az := t.destAz, el := t.destEl } ∨
          e.motion ∈ [.tracking, .keyhole] ∧ q = { az := e.az.demand, el := e.el.demand }) →
        let name : List RField := (match t.given.origin with
            | .list id => [.text "LIST", .num id]
            | .goto => [.text "GOTO", .absent]) ++ [.text t.given.coords.kind.word]
        let zones : List RField := (zonesAt s.part.limits q).map (fun n : Nat => .num n)
        (t.given.coords.kind = .axis →
          Gives (.limq (ownFrame ln) []) s ln .limq .ok
            (name ++ [.absent, .absent, .absent, .absent, .absent] ++ zones) h) ∧
        (∀ alt az, t.given.coords.kind ≠ .axis → e.seen = some (alt, az) →
          let least := max (maskAt s.part.limits az) e.cfg.elLo
          Gives (.limq (ownFrame ln) []) s ln .limq .ok
            (name ++ [.num (maskAt s.part.limits az), opt t.given.minAlt, .num e.cfg.elLo,
                .num (match t.given.minAlt with
                  | some m => max least m
                  | none => least), .num alt] ++ zones) h)) ∧
      (∀ a : Int, 0 ≤ a → a ≤ 1295999999 →
        Gives (.limq (ownFrame ln) [.word "AZ", .num a]) s ln .limq .ok [.num (maskAt s.part.limits a)] h) ∧
      (∀ az el : Int, -972000000 ≤ az → az ≤ 972000000 → 0 ≤ el → el ≤ 325800000 →
        Gives (.limq (ownFrame ln) [.word "AXIS", .num az, .num el]) s ln .limq .ok
          ([yes (decide (e.cfg.azLo ≤ az ∧ az ≤ e.cfg.azHi)), yes (decide (e.cfg.elLo ≤ el ∧ el ≤ e.cfg.elHi))]
            ++ (zonesAt s.part.limits { az := az, el := el }).map (fun n => .num n)) h)) ∧
    (Answers s.part ln .mask → ∀ (i : Nat) (v : Int), i ≤ 35 → s.part.limits.mask[i]? = some v →
      Gives (.maskRead (ownFrame ln) [.num i]) s ln .mask .ok [.num i, .num (i * 36000000), .num v] h) ∧
    (Answers s.part ln .zone → ∀ (n : Nat) (z : Zone), n ≤ 7 → s.part.limits.zones[n]? = some z →
      Gives (.zoneRead (ownFrame ln) [.num n]) s ln .zone .ok
        [.num n, .num z.azMin, .num z.azMax, .num z.elMin, .num z.elMax, .text (if z.on then "ON" else "OFF")] h)

/-- QLST, TRAP,s, PLAN and GUID without a correction: the list with its draft, an entry's fields and its options in the order
of R80's table, a slot, the plans with a record in the order of R93, and the Guide Unit, and nothing changed (R90, R92, R93,
R123, R127). -/
def Obligations.ListPlanGuideQueries : Prop :=
  ∀ (s : State) (ln : Line), s.part.Noticed →
    let h := s.part.heard ln
    let l := s.part.list
    let g := s.part.guide
    let opt (x : Option Nat) : RField := match x with
      | some n => .num n
      | none => .absent
    let int (x : Option Int) : RField := match x with
      | some n => .num n
      | none => .absent
    let yes (b : Bool) : RField := .text (if b then "YES" else "NO")
    let tag (w : String) (x : Option Int) : List RField := match x with
      | some n => [.text w, .num n]
      | none => []
    let options (o : Opts) : List RField :=
      (match o.rates with
        | some r => [.text "RATE", .num r.ra, .num r.dec, .num r.epoch]
        | none => [])
      ++ tag "NB" o.notBefore ++ tag "NA" o.notAfter ++ tag "GU" o.giveUp ++ tag "MIN" o.minAlt
      ++ (match o.group with
        | some n => [.text "GRP", .num n]
        | none => [])
      ++ (match o.wrap with
        | some .near => [.text "NEAR"]
        | some .pos => [.text "POS"]
        | some .neg => [.text "NEG"]
        | none => [])
      ++ (if o.guide then [.text "GUIDE"] else []) ++ (if o.hold then [.text "HOLD"] else [])
    let body (b : Body) (group : RField) : List RField := match b with
      | .sky ra dec w => [.text "SKY", group, .num w, .num ra, .num dec]
      | .altaz az alt w => [.text "ALTAZ", group, .num w, .num az, .num alt]
      | .axis az el w => [.text "AXIS", group, .num w, .num az, .num el]
      | .mark => [.text "MARK", group, .absent]
      | .park => [.text "PARK", group, .absent]
    let state (r : PlanRec) : RField := .text (if r.current then "CURRENT" else "STALE")
    let outcome (r : PlanRec) : RField := match r.outcome with
      | some o => .text o.word
      | none => .absent
    let planned (r : PlanRec) : List RField :=
      [state r, int r.start, int r.finish, outcome r,
       match r.side with
       | some .pos => .text "POS"
       | some .neg => .text "NEG"
       | none => .absent,
       yes r.keyhole, int r.altitude]
    let counts : List RField :=
      [.num (l.entries.countP fun e => e.plan.current), .num (l.entries.countP fun e => !e.plan.current),
       .num (l.entries.countP fun e => e.plan.current && match e.plan.outcome with
         | some o => o != .run
         | none => false)]
    (Answers s.part ln .qlst →
      Gives (.qlst (ownFrame ln) []) s ln .qlst .ok
        ([.num l.entries.length, .num (96 - l.entries.length : Nat), opt (l.entries.head?.map Entry.id), opt l.current]
          ++ (match l.draft with
            | some d => [.num d.id, .text (match d.verb with
              | .add => "ADD"
              | .sub => "SUB")]
            | none => [.absent, .absent])) h ∧
      (∀ k : Nat, 1 ≤ k → k ≤ 96 →
        Gives (.qlst (ownFrame ln) [.word "FROM", .num k]) s ln .qlst .ok
          (.num k :: ((l.entries.drop (k - 1)).take 8).map (fun e => .num e.id)) h) ∧
      (∀ (id : Nat) (e : Entry), 1 ≤ id → id ≤ 65535 → l.find id = some e →
        Gives (.qlst (ownFrame ln) [.word "ID", .num id]) s ln .qlst .ok
          (.num (l.position e.id) :: body e.body (opt e.opts.group)) h ∧
        Gives (.qlst (ownFrame ln) [.word "ID", .num id, .word "OPT"]) s ln .qlst .ok (options e.opts) h) ∧
      (∀ id : Nat, 1 ≤ id → id ≤ 65535 → l.find id = none →
        Gives (.qlst (ownFrame ln) [.word "ID", .num id]) s ln .qlst .notFound [] h)) ∧
    (Answers s.part ln .trap → ∀ (k : Nat) (x : Slot), k ≤ 3 → l.slots[k]? = some x →
      Gives (.trapRead (ownFrame ln) [.num k]) s ln .trap .ok
        [.num k, opt x.id, .text (if x.on then "ON" else "OFF")] h) ∧
    (Answers s.part ln .plan →
      (∀ ps, s.part.planner.pass = some ps → s.part.clock.isSet = true →
        Gives (.plan (ownFrame ln) []) s ln .plan .ok ([.text "RUNNING", .num ps.cursor] ++ counts) h) ∧
      (s.part.planner.pass = none →
        Gives (.plan (ownFrame ln) []) s ln .plan .ok
          ([.text (if s.part.clock.isSet then "IDLE" else "NOCLOCK"), .absent] ++ counts) h) ∧
      (∀ k : Nat, 1 ≤ k → k ≤ 96 →
        Gives (.plan (ownFrame ln) [.word "FROM", .num k]) s ln .plan .ok
          (.num k :: ((l.entries.drop (k - 1)).take 4).flatMap fun e =>
            [.num e.id, state e.plan, outcome e.plan, int e.plan.start]) h) ∧
      (∀ (id : Nat) (e : Entry), 1 ≤ id → id ≤ 65535 → l.find id = some e →
        Gives (.plan (ownFrame ln) [.word "ID", .num id]) s ln .plan .ok (planned e.plan) h)) ∧
    (Answers s.part ln .guid →
      Gives (.guidRead (ownFrame ln) []) s ln .guid .ok
        [yes g.allowed, .num g.accA, .num g.accE, .num g.remA, .num g.remE, opt g.counted, .num g.applied,
         .num g.superseded, .num g.clipped, yes g.saturated] h)

/-- INPQ, FREC, ALRT, RLOG and STOR,READ: the inputs, the fault records, the mask and the causes in their order, the run
records, by number and the newest, and Power Control, and nothing changed (R139, R161, R163, R167, R178). That a tagged time
and an origin take two fields each, both absent with the time and the second absent for a GOTO, is the model's reading
(log 20). -/
def Obligations.InputFaultLogStoreQueries : Prop :=
  ∀ (s : State) (ln : Line), s.part.Noticed →
    let h := s.part.heard ln
    let f := s.part.faults
    let rs := s.part.log.records
    let opt (x : Option Nat) : RField := match x with
      | some n => .num n
      | none => .absent
    let int (x : Option Int) : RField := match x with
      | some n => .num n
      | none => .absent
    let time (x : Option Stamp) : List RField := match x with
      | some (.site t) => [.text "SITE", .num t]
      | some (.base b) => [.text "BASE", .num b]
      | none => [.absent, .absent]
    let fault (n : Nat) (r : FaultRec) : List RField :=
      [.num n, .text r.severity.word, .text r.source.word, .text r.reason.word] ++ time (some r.first)
        ++ time (some r.last) ++ [.num r.count, opt r.entry, int r.az, int r.el]
    let run (r : RunRec) : List RField :=
      [.num r.seq]
        ++ (match r.origin with
          | .list id => [.text "LIST", .num id]
          | .goto => [.text "GOTO", .absent])
        ++ [.text r.kind.word] ++ time r.started ++ time r.arrived ++ time r.ended
        ++ [opt r.supersededBy,
          match r.outcome with
          | some o => .text o.word
          | none => .absent,
          match r.side with
          | some .pos => .text "POS"
          | some .neg => .text "NEG"
          | none => .absent,
          opt r.generation]
    let counters (r : RunRec) : List RField :=
      [.num r.seq, .num r.dwell, .num r.keyholeMs, .num r.disturbedMs, .num r.applied, .num r.superseded, .num r.clipped,
       .text (if r.saturated then "YES" else "NO")]
    let cause (b : Bool) (w : String) : List RField := if b then [.text w] else []
    let level (x : Option Bool) (out : RField) : RField := match x with
      | some true => .text "ACTIVE"
      | some false => .text "INACTIVE"
      | none => out
    (Answers s.part ln .inpq →
      Gives (.inpq (ownFrame ln) []) s ln .inpq .ok
        (InputName.all.map fun i => level (s.part.inputs.get i).recognised (.text "OFF")) h ∧
      ∀ i : InputName, let x := s.part.inputs.get i
        Gives (.inpq (ownFrame ln) [.word (InputName.word i)]) s ln .inpq .ok
          [.text (match x.cfg.polarity with
            | .high => "HIGH"
            | .low => "LOW"), .num x.cfg.code, .text (if x.enabled then "ON" else "OFF"), level x.last .absent,
           level x.recognised (.text "OFF")] h) ∧
    (Answers s.part ln .frec →
      Gives (.frec (ownFrame ln) []) s ln .frec .ok
        ([.num f.valid.length] ++ f.valid.map (fun n => .num n) ++ [opt f.order.head?,
          .text (if f.overflow then "YES" else "NO")]) h ∧
      (∀ n : Nat, n ≤ 7 → f.at_i n = none →
        Gives (.frec (ownFrame ln) [.num n]) s ln .frec .nothing [.num n] h) ∧
      (∀ (n : Nat) (r : FaultRec), n ≤ 7 → f.at_i n = some r →
        Gives (.frec (ownFrame ln) [.num n]) s ln .frec .ok (fault n r) h)) ∧
    (Answers s.part ln .alrt →
      Gives (.alrtRead (ownFrame ln) []) s ln .alrt .ok
        ([.text (if s.part.alerts.masked then "SET" else "CLEAR")] ++ cause (f.recs.any Option.isSome || f.overflow) "FAULT"
          ++ cause s.part.alerts.mark "MARK" ++ cause s.part.alerts.intercept "INTERCEPT"
          ++ cause s.part.alerts.listEnd "LIST_END" ++ cause s.part.alerts.plan "PLAN"
          ++ cause s.part.alerts.wind "WIND") h) ∧
    (Answers s.part ln .rlog →
      Gives (.rlog (ownFrame ln) []) s ln .rlog .ok
        [.num rs.length, opt (rs.head?.map RunRec.seq), opt (rs.getLast?.map RunRec.seq),
         opt ((rs.find? RunRec.isOpen).map RunRec.seq), .num s.part.log.next] h ∧
      (∀ (n : Nat) (r : RunRec), 1 ≤ n → n ≤ 281474976710655 → s.part.log.find n = some r →
        Gives (.rlog (ownFrame ln) [.num n]) s ln .rlog .ok (run r) h ∧
        Gives (.rlog (ownFrame ln) [.num n, .word "CNT"]) s ln .rlog .ok (counters r) h) ∧
      (∀ r, rs.getLast? = some r →
        Gives (.rlog (ownFrame ln) [.word "NEWEST"]) s ln .rlog .ok (run r) h ∧
        Gives (.rlog (ownFrame ln) [.word "NEWEST", .word "CNT"]) s ln .rlog .ok (counters r) h) ∧
      (rs = [] → Gives (.rlog (ownFrame ln) [.word "NEWEST"]) s ln .rlog .notFound [] h)) ∧
    (Answers s.part ln .stor →
      Gives (.storRead (ownFrame ln) [.word "READ"]) s ln .stor .ok
        ((match s.part.power.writing with
            | some (b, _) => [.text "WRITING", .num (s.part.clock.timeBase - b : Nat)]
            | none => [.text "IDLE", .absent])
          ++ [.text (if s.part.power.mark then "VALID" else "INVALID"),
              .text (if s.part.power.loadResult then "VALID" else "INVALID"), .num s.part.power.waitCode]) h)

/-! ### Messages that set the clock, the site, the model and the tables (01, 02, 03, 05) -/

/-- TIME sets the anchor and the reference pair, discards a trim and marks the clock set; the step, absent for a first
setting, is the reply's field; with no fault of its own, no give-up and no start instant at hand the Planner is asked for a
pass and nothing else changes. Stated for a runner that is IDLE, and for TRACKING with a step of 1,000 ms or less (R3, R4).
With a larger step in TRACKING it does the same, and CLOCK_STEP is recorded besides, of LIST and with the current entry when
the track is that entry's; the track goes on (R4; that the record carries the new reading and no positions is log 15). Stated
for a runner that does not wait and works no entry with a give-up. TRIM takes a time within 500 ms of the reading as its Δ
from the reading as it stands, and refuses any other with TOO_FAR, Δ its field, and nothing changed; a time out of range is
RANGE, and any other while the clock is unset NOCLOCK (R5; that RANGE comes first is the model's choice, log 69, and that
neither carries a Δ its reading, log 70). -/
def Obligations.TimeAndTrimSetTheClock : Prop :=
  (∀ (s : State) (ln : Line), s.part.runner.state = .idle →
     let h := s.part.heard ln
     let b := s.part.clock.timeBase
     (Takes s ln .time → ∀ t theta : Int, 0 ≤ t → t ≤ 281474976710655 → 0 ≤ theta → theta ≤ 1295999999 →
       let set : Part := { h with clock :=
         { timeBase := b, isSet := true, anchorSite := t, anchorBase := b, refTime := t, refAngle := theta,
           trim := none } }
       (s.part.clock.isSet = false →
         Gives (.time (ownFrame ln) [.num t, .num theta]) s ln .time .ok [.absent] (requestPass set)) ∧
       (∀ r, s.part.clock.reading = some r → (s.part.engine.motion = .tracking → -1000 ≤ t - r ∧ t - r ≤ 1000) →
         Gives (.time (ownFrame ln) [.num t, .num theta]) s ln .time .ok [.num (t - r)] (requestPass set)))) ∧
  (∀ (s : State) (ln : Line) (t : Int), Takes s ln .trim →
     let h := s.part.heard ln
     let b := s.part.clock.timeBase
     let act : Instr := .trim (ownFrame ln) [.num t]
     (t < 0 ∨ 281474976710655 < t → Gives act s ln .trim .range [] h) ∧
     (0 ≤ t → t ≤ 281474976710655 → s.part.clock.isSet = false → Gives act s ln .trim .noClock [] h) ∧
     ∀ r, 0 ≤ t → t ≤ 281474976710655 → s.part.clock.reading = some r →
       (-500 ≤ t - r → t - r ≤ 500 → Gives act s ln .trim .ok [.num (t - r)] { h with clock :=
         { s.part.clock with anchorSite := r, anchorBase := b, trim := some { start := b, delta := t - r } } }) ∧
       (t - r < -500 ∨ 500 < t - r → Gives act s ln .trim .tooFar [.num (t - r)] h)) ∧
  (∀ (s : State) (ln : Line) (t theta r : Int), Takes s ln .time → s.part.engine.motion = .tracking →
     0 ≤ t → t ≤ 281474976710655 → 0 ≤ theta → theta ≤ 1295999999 → s.part.clock.reading = some r →
     (t - r < -1000 ∨ 1000 < t - r) → s.part.runner.state ≠ .waiting →
     (s.part.runner.state.working = true → ∀ e, s.part.ctxEntry = some e → e.opts.giveUp = none) →
     let b := s.part.clock.timeBase
     let entry := if s.part.onEntry then s.part.list.current else none
     Gives (.time (ownFrame ln) [.num t, .num theta]) s ln .time .ok [.num (t - r)] (requestPass { s.part.heard ln with
       clock := { timeBase := b, isSet := true, anchorSite := t, anchorBase := b, refTime := t, refAngle := theta,
                  trim := none },
       faults := s.part.faults.record { source := .list, reason := .clockStep, entry := entry, az := none, el := none }
         (.site t) }))

/-- SITE with two values in range, outside a store write and in a state that lets it, replaces both and asks the Planner
for a pass (R10). MTRM stages a term and leaves the active set, the generation and the pending flag; REVERT copies the
active set back (R22). -/
def Obligations.SiteAndTermsAreWritten : Prop :=
  ∀ (s : State) (ln : Line), s.part.power.writing = none →
    let h := s.part.heard ln
    (Takes s ln .site → ∀ lat k : Int, -320400000 ≤ lat → lat ≤ 320400000 → 0 ≤ k → k ≤ 70000 →
      s.part.engine.motion ∈ [.unreferenced, .parked, .ready, .tripped, .dormant] →
      Gives (.site (ownFrame ln) [.num lat, .num k]) s ln .site .ok [.num lat, .num k]
        (requestPass { h with site := { latitude := lat, refraction := k } })) ∧
    (Takes s ln .mtrm → s.part.model.pending = false →
      (∀ v : Int, -3600000 ≤ v → v ≤ 3600000 →
        let put (t : Terms) : Part := { h with model := { s.part.model with staged := t } }
        let out (t : Terms) : List RField :=
          [.num t.ia, .num t.ie, .num t.ca, .num t.np, .num t.an, .num t.ae, .num t.tf]
        let m := s.part.model.staged
        let one (w : String) (t : Terms) : Prop :=
          Gives (.mtrm (ownFrame ln) [.word w, .num v]) s ln .mtrm .ok (out t) (put t)
        one "IA" { m with ia := v } ∧ one "IE" { m with ie := v } ∧ one "CA" { m with ca := v } ∧
        one "NP" { m with np := v } ∧ one "AN" { m with an := v } ∧ one "AE" { m with ae := v } ∧
        one "TF" { m with tf := v } ∧
        Gives (.mtrm (ownFrame ln) [.word "REVERT"]) s ln .mtrm .ok (out s.part.model.active)
          (put s.part.model.active)))

/-- MACT: with fields it is MALFORMED, during a store write BUSY; with the pending flag set nothing changes; while a
target is followed the flag is set; and in every other state the staged set, the same one or not, becomes the active one
at once, the generation advances, from 65,535 to 1, and the Planner is asked for a pass (R23, R25). What R23 leaves open or
R25's table says otherwise is the model's reading: the generation in the reply with the flag already set (log 38), and the
activation at once in STOPPING, UNPARKING, REFERENCING and STOWED, where the table has it pending (log 56). -/
def Obligations.ActivationAtOnceOrPending : Prop :=
  ∀ (s : State) (ln : Line), Takes s ln .mact →
    let h := s.part.heard ln
    let m := s.part.model
    let gen := if m.generation = 65535 then 1 else m.generation + 1
    (∀ f fs, Gives (.mact (ownFrame ln) (f :: fs)) s ln .mact .malformed [] h) ∧
    (s.part.power.writing ≠ none → Gives (.mact (ownFrame ln) []) s ln .mact .busy [] h) ∧
    (s.part.power.writing = none →
      (m.pending = true → Gives (.mact (ownFrame ln) []) s ln .mact .pending [.num m.generation] h) ∧
      (m.pending = false → s.part.engine.motion ∈ [.slewing, .settling, .tracking, .keyhole] →
        Gives (.mact (ownFrame ln) []) s ln .mact .pending [.num m.generation]
          { h with model := { m with pending := true } }) ∧
      (m.pending = false → ¬s.part.engine.motion ∈ [.slewing, .settling, .tracking, .keyhole] →
        Gives (.mact (ownFrame ln) []) s ln .mact .ok [.num gen]
          (requestPass { h with model :=
            { staged := m.staged, active := m.staged, generation := gen, pending := false } })))

/-- OFFS reads the user offset in every state and replaces it in TRACKING only; two values with one beyond ±3,600,000
are RANGE, in every state by the model's choice (log 60), and any other fields MALFORMED (R46). AXCF reads every setting
of R50's table, in its order. One or more pairs of a setting and a value, no setting twice: a value outside its own
range is RANGE, then a store write or a state that lets no setting be changed is BUSY, then a configuration that does
not hold together as a whole is RANGE; with none of these the settings named are replaced, all the others kept, and the
Planner is asked for a pass. Any other fields are MALFORMED (R50, R51; that PARKAZ and STOWEL have the axis's whole
range as their own is the model's reading, log 19). -/
def Obligations.OffsetsAndAxisSettings : Prop :=
  ∀ (s : State) (ln : Line),
    let h := s.part.heard ln
    let e := s.part.engine
    (Takes s ln .offs →
      Gives (.offs (ownFrame ln) []) s ln .offs .ok [.num e.offArc, .num e.offEl] h ∧
      (∀ a b : Int, -3600000 ≤ a → a ≤ 3600000 → -3600000 ≤ b → b ≤ 3600000 →
        (e.motion = .tracking →
          Gives (.offs (ownFrame ln) [.num a, .num b]) s ln .offs .ok [.num a, .num b]
            { h with engine := { e with offArc := a, offEl := b } }) ∧
        (e.motion ≠ .tracking → Gives (.offs (ownFrame ln) [.num a, .num b]) s ln .offs .state [] h)) ∧
      (∀ a b : Int, a < -3600000 ∨ 3600000 < a ∨ b < -3600000 ∨ 3600000 < b →
        Gives (.offs (ownFrame ln) [.num a, .num b]) s ln .offs .range [] h) ∧
      (∀ fs, fs ≠ [] → (∀ a b, fs ≠ [.num a, .num b]) → Gives (.offs (ownFrame ln) fs) s ln .offs .malformed [] h)) ∧
    (Takes s ln .axcf →
      let table : List AxisSetting :=
        [⟨"AZLO", -972000000, 972000000, fun c => c.azLo, fun c v => { c with azLo := v }⟩,
         ⟨"AZHI", -972000000, 972000000, fun c => c.azHi, fun c v => { c with azHi := v }⟩,
         ⟨"ELLO", 0, 325800000, fun c => c.elLo, fun c v => { c with elLo := v }⟩,
         ⟨"ELHI", 0, 325800000, fun c => c.elHi, fun c v => { c with elHi := v }⟩,
         ⟨"AZVMAX", 360000, 36000000, fun c => c.azVmax, fun c v => { c with azVmax := v }⟩,
         ⟨"ELVMAX", 360000, 36000000, fun c => c.elVmax, fun c v => { c with elVmax := v }⟩,
         ⟨"ACCEL", 360000, 36000000, fun c => c.accel, fun c v => { c with accel := v }⟩,
         ⟨"CREEP", 18000, 1800000, fun c => c.creep, fun c v => { c with creep := v }⟩,
         ⟨"SETTLE", 0, 30000, fun c => c.settle, fun c v => { c with settle := v }⟩,
         ⟨"ARRTOL", 500, 360000, fun c => c.arrTol, fun c v => { c with arrTol := v }⟩,
         ⟨"TRKTOL", 100, 360000, fun c => c.trkTol, fun c v => { c with trkTol := v }⟩,
         ⟨"TRIPTRK", 10000, 3600000, fun c => c.tripTrk, fun c v => { c with tripTrk := v }⟩,
         ⟨"TRIPSLW", 360000, 36000000, fun c => c.tripSlw, fun c v => { c with tripSlw := v }⟩,
         ⟨"PARKAZ", -972000000, 972000000, fun c => c.parkAz, fun c v => { c with parkAz := v }⟩,
         ⟨"PARKEL", 0, 325800000, fun c => c.parkEl, fun c v => { c with parkEl := v }⟩,
         ⟨"STOWEL", 0, 325800000, fun c => c.stowEl, fun c v => { c with stowEl := v }⟩,
         ⟨"KEYALT", 306000000, 322200000, fun c => c.keyAlt, fun c v => { c with keyAlt := v }⟩,
         ⟨"AZINDEX", -972000000, 972000000, fun c => c.azIndex, fun c v => { c with azIndex := v }⟩,
         ⟨"ELINDEX", 0, 325800000, fun c => c.elIndex, fun c v => { c with elIndex := v }⟩]
      let shown (c : AxisCfg) : List RField := table.flatMap fun x => [.text x.name, .num (x.read c)]
      let pairs (sets : List (AxisSetting × Int)) : List Field := sets.flatMap fun x => [.word x.1.name, .num x.2]
      let named (sets : List (AxisSetting × Int)) : Prop :=
        sets ≠ [] ∧ (∀ x ∈ sets, x.1 ∈ table) ∧ (sets.map fun x => x.1.name).Nodup
      Gives (.axcf (ownFrame ln) []) s ln .axcf .ok (shown e.cfg) h ∧
      (∀ sets, named sets →
        let ask : Instr := .axcf (ownFrame ln) (pairs sets)
        let c := sets.foldl (fun c x => x.1.write c x.2) e.cfg
        let ranged := ∀ x ∈ sets, x.1.lo ≤ x.2 ∧ x.2 ≤ x.1.hi
        let free := s.part.power.writing = none ∧ e.motion ∈ [.unreferenced, .parked, .ready, .tripped, .dormant]
        let whole := c.azLo < c.azHi ∧ c.elLo < c.elHi ∧ (c.azLo ≤ c.parkAz ∧ c.parkAz ≤ c.azHi) ∧
          (c.elLo ≤ c.stowEl ∧ c.stowEl ≤ c.elHi) ∧
          (∀ a, e.az.referenced = true → e.az.actual = some a → c.azLo ≤ a ∧ a ≤ c.azHi) ∧
          (∀ a, e.el.referenced = true → e.el.actual = some a → c.elLo ≤ a ∧ a ≤ c.elHi)
        (¬ranged → Gives ask s ln .axcf .range [] h) ∧
        (ranged → ¬free → Gives ask s ln .axcf .busy [] h) ∧
        (ranged → free → ¬whole → Gives ask s ln .axcf .range [] h) ∧
        (ranged → free → whole →
          Gives ask s ln .axcf .ok (shown c) (requestPass { h with engine := { e with cfg := c } }))) ∧
      (∀ fs, fs ≠ [] → (∀ sets, named sets → fs ≠ pairs sets) →
        Gives (.axcf (ownFrame ln) fs) s ln .axcf .malformed [] h))

/-- MASK and ZONE writes outside a store write: one point, all the points, a zone's flag, a zone's bounds with or without
the flag; the rest of the tables stays, and the Planner is asked for a pass (R68, R71, R76). The mask value at an azimuth
is the value between the two points about it, point 35's next being point 0, rounded once with halves away from zero, and
at a point it is that point (R69). -/
def Obligations.MaskAndZoneAreWritten : Prop :=
  (∀ (l : Limits) (i : Nat) (f m n : Int), i ≤ 35 → 0 ≤ f → f < 36000000 → l.mask[i]? = some m →
    l.mask[if i = 35 then 0 else i + 1]? = some n → 0 ≤ m → 0 ≤ n →
    let exact := m * 36000000 + (n - m) * f
    let v : Int := maskAt l (i * 36000000 + f)
    36000000 * (2 * v - 1) ≤ 2 * exact ∧ 2 * exact < 36000000 * (2 * v + 1) ∧ (f = 0 → v = m)) ∧
  ∀ (s : State) (ln : Line), s.part.power.writing = none →
    let h := s.part.heard ln
    let l := s.part.limits
    (Takes s ln .mask →
      (∀ (i : Nat) (v : Int), i ≤ 35 → i < l.mask.length → 0 ≤ v → v ≤ 216000000 →
        Gives (.maskWrite (ownFrame ln) [.num i, .num v]) s ln .mask .ok [.num i, .num (i * 36000000), .num v]
          (requestPass { h with limits := { l with mask := l.mask.set i v } })) ∧
      (∀ v : Int, 0 ≤ v → v ≤ 216000000 →
        Gives (.maskAll (ownFrame ln) [.word "ALL", .num v]) s ln .mask .ok [.text "ALL", .num v]
          (requestPass { h with limits := { l with mask := List.replicate l.mask.length v } }))) ∧
    (Takes s ln .zone → ∀ (n : Nat) (z : Zone), n ≤ 7 → l.zones[n]? = some z →
      let shown (z : Zone) : List RField :=
        [.num n, .num z.azMin, .num z.azMax, .num z.elMin, .num z.elMax, .text (if z.on then "ON" else "OFF")]
      let put (z : Zone) : Part := requestPass { h with limits := { l with zones := l.zones.set n z } }
      let on := { z with on := true }
      let off := { z with on := false }
      Gives (.zoneEnable (ownFrame ln) [.num n, .word "ON"]) s ln .zone .ok (shown on) (put on) ∧
      Gives (.zoneEnable (ownFrame ln) [.num n, .word "OFF"]) s ln .zone .ok (shown off) (put off) ∧
      ∀ a b c d : Int, -972000000 ≤ a → a ≤ b → b ≤ 972000000 → 0 ≤ c → c ≤ d → d ≤ 325800000 →
        let w (f : Bool) : Zone := { azMin := a, azMax := b, elMin := c, elMax := d, on := f }
        Gives (.zoneBounds (ownFrame ln) [.num n, .num a, .num b, .num c, .num d]) s ln .zone .ok (shown (w z.on))
          (put (w z.on)) ∧
        Gives (.zoneBounds (ownFrame ln) [.num n, .num a, .num b, .num c, .num d, .word "ON"]) s ln .zone .ok
          (shown (w true)) (put (w true)) ∧
        Gives (.zoneBounds (ownFrame ln) [.num n, .num a, .num b, .num c, .num d, .word "OFF"]) s ln .zone .ok
          (shown (w false)) (put (w false)))

/-! ### Messages that move the mount (03, 09, 11) -/

/-- A GOTO that passes R41 and R42. A run record of origin GOTO opens at the next sequence number, its start written with the
wrap side and the generation; the target record is filled in, its azimuth that of the chosen candidate nearest its present
one; and the reply tells the number, the side, the destination and the estimate (R43, R53, R61). In READY, STOPPING,
SETTLING, TRACKING and KEYHOLE it is a slew start: SLEWING from the demands with fresh profiles and the offsets 0 (R31,
R126). In SLEWING it is a redirect: demands, velocities, profiles and offsets stay, captured axes are released, and a pending
activation stays pending (R44; a profile carried over, log 18).
The GOTO that is left, its keyhole time added (R66): closed ENDED when it had reached TRACKING, else superseded by the new
record (R45). The runner: IDLE or HELD it stays; EMPTY, WAITING or INTERCEPT it is HELD, reason GOTO, the list untouched;
working, its entry leaves with its dwell written, its record superseded before the arrival and closed INTERRUPTED after it,
and it is HELD, reason GOTO (R116). The old record is ended before the new one is created: the model's choice (log 58). -/
def Obligations.GotoStartsASlew : Prop :=
  ∀ (s : State) (ln : Line) (fs : List Field) (g : GotoAsk), Answers s.part ln .goto → readGoto fs = some g →
    gotoInRange s.part.engine.cfg g.coords = true → (g.coords.isSky = true → s.part.clock.isSet = true) →
    s.part.countsTripped = false → s.part.wind.hold = false → gotoDestination s.part g = none →
    s.part.engine.motion ∈ [.ready, .stopping, .slewing, .settling, .tracking, .keyhole] →
    s.part.engine.request = none → (s.part.engine.motion ≠ .slewing → s.part.model.pending = false) → s.part.log.Ok →
    let e := s.part.engine
    let run := s.part.runner
    let n := s.part.log.next
    let on : Bool := e.motion == .slewing
    let given : Assignment :=
      { origin := .goto, coords := g.coords, pref := g.pref, guide := g.guide, dwell := none, estimate := none,
        minAlt := none, record := some n }
    let a := aimAt s.part g.coords s.part.siteNow
    let cand := engineCandidate s.part given
    let t : Target :=
      { given := given, destAz := nearTurn cand a.axes.az, destEl := a.axes.el, side := sideOf cand, arrived := false,
        reached := false, noRun := false }
    let free (x : AxisState) : AxisState := { x with captured := false, profile := if on then x.profile else none }
    let opened (l : RunLog) : RunLog := (l.create .goto g.coords.kind).change n fun r => { r with
      started := some s.part.stamp, side := some (sideOf cand), generation := some s.part.model.generation }
    let left : RunLog := match e.target with
      | some u => match u.given.origin, u.given.record with
        | .goto, some k =>
          let l := match e.passage with
            | some w => s.part.log.change k fun r => { r with keyholeMs := r.keyholeMs + (s.part.clock.timeBase - w.entered) }
            | none => s.part.log
          l.change k fun r => if u.reached then r.close .ended s.part.stamp else r.supersede n
        | _, _ => s.part.log
      | none => s.part.log
    ∃ q, exec (.goto (ownFrame ln) fs) s = .next { s with part := q } ∧
      q.engine = { e with
        motion := .slewing, target := some t, offArc := if on then e.offArc else 0, offEl := if on then e.offEl else 0,
        arrivedAt := none, passage := none, az := free e.az, el := free e.el } ∧
      q.guide.accA = (if on then s.part.guide.accA else 0) ∧ q.guide.accE = (if on then s.part.guide.accE else 0) ∧
      (on = false → q.guide.remA = 0 ∧ q.guide.remE = 0) ∧ (on = true → s.part.Noticed → q.guide = s.part.guide) ∧
      (run.state.working = false →
        ((∃ u k, e.target = some u ∧ u.given.origin = .goto ∧ u.given.record = some k) ∨
          ∀ u, e.target = some u → u.given.record = none) →
        q.log = opened left ∧ q.list = s.part.list ∧ q.planner = s.part.planner ∧
        (run.state.running = false → q.runner.state = run.state ∧ (s.part.Noticed → q.runner = run)) ∧
        (run.state.running = true → q.runner = { run with
          state := .held .goto, holdAfter := false, ctx := RunCtx.blank })) ∧
      (∀ u k id, run.state.working = true → run.ctx.record = some k → run.ctx.id = some id → e.target = some u →
        u.given.record = some k → u.given.origin = .list id → e.passage = none →
        q.log = opened (s.part.log.change k fun r =>
          if r.isOpen then
            if u.arrived then
              { r with dwell := s.part.dwellSoFar, ended := some s.part.stamp, outcome := some .interrupted }
            else { r with dwell := s.part.dwellSoFar, supersededBy := some n }
          else r) ∧
        q.list.entries.map Entry.id = (s.part.list.entries.map Entry.id).filter (fun x => x != id) ∧
        q.list.current = (if s.part.list.current = some id then none else s.part.list.current) ∧
        q.runner = { run with state := .held .goto, holdAfter := false, ctx := RunCtx.blank }) ∧
      q.faults = s.part.faults ∧ q.alerts = s.part.alerts ∧
      q.power = s.part.power ∧ q.clock = s.part.clock ∧ q.limits = s.part.limits ∧ q.inputs = s.part.inputs ∧
      q.wind = s.part.wind ∧ q.model = s.part.model ∧ q.lastAz = s.part.lastAz ∧
      Replies q ln .goto .ok [.num n, .text (sideOf cand).word, .num t.destAz, .num t.destEl,
        .num (slewEstimate e.cfg { az := e.az.demand, el := e.el.demand } { az := t.destAz, el := t.destEl })]

/-- What a GOTO reads (R41): a kind, its numbers, with rates and epoch together for SKY, then a wrap word and, for SKY,
GUIDE in either order; the range of each of its numbers (R41); and what it is refused with when the part's condition forbids
it, and then when its destination does: RANGE for an elevation-axis position outside the soft limits, or a sky or ALTAZ target
with no position of its azimuth inside them; ZONE for the chosen candidate in an enabled zone; LOW for an altitude below the
effective lower altitude; none of these, and it passes. The first failing check gives the reply, and nothing is changed
(R42, R55, R60). -/
def Obligations.GotoFormsAndRefusals : Prop :=
  (∀ a d : Int, readGoto [.word "SKY", .num a, .num d] = some ⟨.sky a d none, .near, false⟩) ∧
  (∀ a d x y t : Int, readGoto [.word "SKY", .num a, .num d, .num x, .num y, .num t, .word "POS", .word "GUIDE"] =
    some ⟨.sky a d (some { ra := x, dec := y, epoch := t }), .pos, true⟩) ∧
  (∀ a d : Int, readGoto [.word "SKY", .num a, .num d, .word "GUIDE", .word "NEG"] =
    some ⟨.sky a d none, .neg, true⟩) ∧
  (∀ a d : Int, readGoto [.word "ALTAZ", .num a, .num d, .word "NEG"] = some ⟨.altaz a d, .neg, false⟩) ∧
  (∀ a d : Int, readGoto [.word "AXIS", .num a, .num d] = some ⟨.axis a d, .near, false⟩) ∧
  (∀ a d : Int, readGoto [.word "AXIS", .num a, .num d, .word "POS"] = none) ∧
  (∀ a d : Int, readGoto [.word "ALTAZ", .num a, .num d, .word "GUIDE"] = none) ∧
  ∀ (s : State) (ln : Line) (fs : List Field), Takes s ln .goto →
    let h := s.part.heard ln
    let refused (r : Result) : Prop := Gives (.goto (ownFrame ln) fs) s ln .goto r [] h
    (readGoto fs = none → refused .malformed) ∧
    ∀ g, readGoto fs = some g →
      let c := s.part.engine.cfg
      let inRange : Prop := match g.coords with
        | .sky a d rates => 0 ≤ a ∧ a ≤ 1295999999 ∧ -324000000 ≤ d ∧ d ≤ 324000000 ∧
            ∀ r, rates = some r → -36000000 ≤ r.ra ∧ r.ra ≤ 36000000 ∧ -36000000 ≤ r.dec ∧ r.dec ≤ 36000000 ∧
              0 ≤ r.epoch ∧ r.epoch ≤ 281474976710655
        | .altaz a d => 0 ≤ a ∧ a ≤ 1295999999 ∧ 0 ≤ d ∧ d ≤ 324000000
        | .axis a d => c.azLo ≤ a ∧ a ≤ c.azHi ∧ c.elLo ≤ d ∧ d ≤ c.elHi
      (gotoInRange c g.coords = true ↔ inRange) ∧
      (gotoInRange s.part.engine.cfg g.coords = false → refused .range) ∧
      (gotoInRange s.part.engine.cfg g.coords = true →
        let m := s.part.engine.motion
        let unref := m ∈ [.unreferenced, .waking, .referencing]
        let noClock := g.coords.isSky = true ∧ s.part.clock.isSet = false
        let tripped := s.part.countsTripped = true
        let wind := s.part.wind.hold = true
        let state := m ∈ [.parked, .dormant, .unparking, .parking]
        (unref → refused .unref) ∧ (¬unref → noClock → refused .noClock) ∧
        (¬unref → ¬noClock → tripped → refused .tripped) ∧
        (¬unref → ¬noClock → ¬tripped → wind → refused .wind) ∧
        (¬unref → ¬noClock → ¬tripped → ¬wind → state → refused .state) ∧
        (¬unref → ¬noClock → ¬tripped → ¬wind → ¬state →
          let a := aimAt s.part g.coords s.part.siteNow
          let choice := wrapChoice s.part g.coords s.part.siteNow 3600000 g.pref s.part.engine.az.demand
          let elOut := a.axes.el < c.elLo ∨ c.elHi < a.axes.el
          let noPlace := (∀ x y, g.coords ≠ .axis x y) ∧
            ∀ k : Int, ¬(c.azLo ≤ a.axes.az + k * 1296000000 ∧ a.axes.az + k * 1296000000 ≤ c.azHi)
          let low := ∃ pl, a.place = some pl ∧ pl.alt < effectiveLower s.part none pl.az
          (elOut ∨ noPlace → refused .range) ∧
          (¬(elOut ∨ noPlace) → ∃ az, (choice = .fits az ∨ choice = .longest az) ∧ c.azLo ≤ az ∧ az ≤ c.azHi ∧
            let zone := inZones s.part.limits { az := az, el := a.axes.el } = true
            (zone → refused .zone) ∧ (¬zone → low → refused .low) ∧
            (¬zone → ¬low → gotoDestination s.part g = none))))

/-- STOP with the runner IDLE or HELD: in the states that follow no target and park nothing it changes nothing; a GOTO
target's track, slew or passage is left for STOPPING with its keyhole time added and its record closed ENDED, and a park is
left too, both with the demands and velocities as they were, READY at once where both are 0; a reference run and a backout
are halted, and one whose axes stand already is UNREFERENCED, with no axis referenced, or TRIPPED (R36, R37, R45, R66). One
interval of a halted reference run brings both axes toward rest, and at rest the drives go off in UNREFERENCED with no axis
referenced (R36, R145; an axis without an actual position, there and in a halted backout of an unreferenced axis, keeps its
demand as its drive goes off: the model's reading, log 34; the interval of a halted backout is said with those of the other
states without a target). STOP with the runner running: in EMPTY, WAITING and INTERCEPT it is HELD, reason STOP, the list and
the log untouched, the engine as above; an entry being worked closes STOPPED and leaves, the runner is HELD, reason STOP, and
the engine comes to rest, in UNPARKING going on without the entry's request (R36, R117). STOP with fields is MALFORMED. -/
def Obligations.StopByState : Prop :=
  (∀ (s : State) (ln : Line), Takes s ln .stop →
     let h := s.part.heard ln
     let e := s.part.engine
     let run := s.part.runner
     let still := e.az.velocity = 0 ∧ e.el.velocity = 0
     let rests : Engine := { e with
       motion := if still then .ready else .stopping, target := none, passage := none, request := none,
       arrivedAt := none, halting := if still then false else e.halting,
       unparkAt := if still then none else e.unparkAt,
       az := { e.az with captured := false, profile := none }, el := { e.el with captured := false, profile := none } }
     let said : List RField := [.text (if still then "READY" else "STOPPING")]
     let quiet := e.motion ∈ [.stopping, .stowing, .stowed, .unparking, .ready, .parked, .tripped, .dormant, .unreferenced,
       .waking]
     let held : Runner := { run with state := .held .stop, holdAfter := false, ctx := RunCtx.blank }
     let off (x : AxisState) : AxisState :=
       { x with demand := x.actual.getD x.demand, velocity := 0, profile := none, captured := false, error := none,
                overSince := none }
     let lost (x : AxisState) : AxisState := { off x with referenced := false, actual := none, search := none }
     (∀ f fs, Gives (.stop (ownFrame ln) (f :: fs)) s ln .stop .malformed [] h) ∧
     (run.state.running = false →
       (quiet → Gives (.stop (ownFrame ln) []) s ln .stop .ok [.text e.motion.word] h) ∧
       (∀ t n, e.motion ∈ [.slewing, .settling, .tracking, .keyhole] → e.target = some t → t.given.origin = .goto →
         t.given.record = some n → s.part.model.pending = false → s.part.wind.hold = false →
         ∃ q, exec (.stop (ownFrame ln) []) s = .next { s with part := q } ∧ q.engine = rests ∧
           q.log = (match e.passage with
             | some w => s.part.log.change n fun r =>
                 { r with keyholeMs := r.keyholeMs + (s.part.clock.timeBase - w.entered) }
             | none => s.part.log).change n (fun r => r.close .ended s.part.stamp) ∧
           q.guide.accA = s.part.guide.accA ∧ q.guide.accE = s.part.guide.accE ∧ q.guide.allowed = false ∧
           q.runner = run ∧ q.list = s.part.list ∧ q.faults = s.part.faults ∧ q.power = s.part.power ∧
           q.clock = s.part.clock ∧ q.wind = s.part.wind ∧ Replies q ln .stop .ok said) ∧
       (e.motion = .parking → e.target = none → e.passage = none → s.part.model.pending = false →
         s.part.wind.hold = false →
         Gives (.stop (ownFrame ln) []) s ln .stop .ok said { h with engine := rests }) ∧
       (e.motion = .referencing →
         (¬still → Gives (.stop (ownFrame ln) []) s ln .stop .ok [.text "REFERENCING"]
           { h with engine := { e with halting := true } }) ∧
         (still → Gives (.stop (ownFrame ln) []) s ln .stop .ok [.text "UNREFERENCED"]
           { h with engine := { e with
             motion := .unreferenced, halting := false, mismatch := false, disturbed := false, az := lost e.az,
             el := lost e.el } })) ∧
       (∀ b, e.motion = .backout → e.backout = some b → s.part.model.pending = false →
         let x := match b.axis with
           | .az => e.az
           | .el => e.el
         (x.velocity ≠ 0 → Gives (.stop (ownFrame ln) []) s ln .stop .ok [.text "BACKOUT"]
           { h with engine := { e with halting := true } }) ∧
         (x.velocity = 0 → Gives (.stop (ownFrame ln) []) s ln .stop .ok [.text "TRIPPED"]
           { h with engine := { e with
             motion := .tripped, halting := false, backout := none, disturbed := false,
             az := if b.axis = .az then off e.az else e.az, el := if b.axis = .el then off e.el else e.el } }))) ∧
     (run.state ∈ [.empty, .waiting, .intercept] →
       (quiet → Gives (.stop (ownFrame ln) []) s ln .stop .ok [.text e.motion.word] { h with runner := held }) ∧
       (∀ t, e.motion ∈ [.slewing, .settling, .tracking, .keyhole] → e.target = some t → t.given.record = none →
         s.part.model.pending = false → s.part.wind.hold = false →
         Gives (.stop (ownFrame ln) []) s ln .stop .ok said { h with runner := held, engine := rests })) ∧
     (∀ (w : Entry) (n : Nat), run.state.working = true → run.ctx.record = some n → run.ctx.id = some w.id →
       s.part.list.find w.id = some w → e.passage = none → s.part.model.pending = false → s.part.wind.hold = false →
       (e.motion ∈ [.slewing, .settling, .tracking] ∧
          (∃ t, e.target = some t ∧ t.given.record = some n ∧ t.given.origin = .list w.id) ∨
        e.motion ∈ [.parking, .unparking] ∧ e.target = none) →
       ∃ q, exec (.stop (ownFrame ln) []) s = .next { s with part := q } ∧ s.part.Closed q n w.id .stopped ∧
         q.runner = held ∧ q.engine = (if e.motion = .unparking then { e with request := none } else rests) ∧
         q.faults = s.part.faults ∧ q.power = s.part.power ∧ q.clock = s.part.clock ∧ q.wind = s.part.wind ∧
         Replies q ln .stop .ok (if e.motion = .unparking then [.text "UNPARKING"] else said))) ∧
  (∀ (s : State) (rawAz rawEl : Int), s.part.power.powered = true → s.part.Noticed → s.part.intervalDue = true →
     s.part.engine.motion = .referencing → s.part.engine.halting = true → s.part.engine.encodersOn = true →
     (s.part.engine.az.referenced = true →
       wrapDisagrees (s.part.active .wrapSide) (rawAz + s.part.engine.az.zero) = false) →
     0 < s.part.engine.cfg.accel →
     let e := s.part.engine
     let va := broughtTo e.cfg.accel e.az.velocity 0
     let ve := broughtTo e.cfg.accel e.el.velocity 0
     ∃ q, exec (.demandInterval rawAz rawEl) s = .next { s with part := q } ∧
       (¬(va = 0 ∧ ve = 0) → q.engine.motion = .referencing ∧ q.engine.halting = true ∧ q.engine.az.velocity = va ∧
         q.engine.el.velocity = ve ∧ q.engine.az.referenced = e.az.referenced ∧
         q.engine.el.referenced = e.el.referenced) ∧
       (va = 0 ∧ ve = 0 → q.engine.motion = .unreferenced ∧ q.engine.halting = false ∧
         ∀ x ∈ [q.engine.az, q.engine.el], x.velocity = 0 ∧ x.referenced = false ∧ x.actual = none ∧ x.search = none ∧
           x.error = none) ∧
       s.part.OnlyMoves q)

/-- PARK with the runner IDLE: from READY, UNPARKING and STOPPING the mount parks; from a followed GOTO target it parks from
the demands and velocities it has, the target dropped and the record, with its keyhole time, closed ENDED; parking, parked or
dormant it goes on; unreferenced, tripped or stowed PARK is refused (R38, R39, R45, R66). PARK from the worked entry's
target: the entry closes PARKED and leaves, the target is dropped, the runner is HELD, reason PARK (R117).
UNPK is refused WIND under a hold and TRIPPED while tripped; else in PARKED it enables both drives where the axes stand and
starts its wait, it is answered OK in UNPARKING, refused UNREF in UNREFERENCED, WAKING, REFERENCING and DORMANT, and STATE in
every other state (R40, R49). PARK or UNPK with fields is MALFORMED.
DORM in PARKED with the runner IDLE or HELD switches the encoders off and leaves no axis referenced; WAKE in DORMANT
switches them on and starts the wait of the code in force; each is refused elsewhere, WAKE in WAKING being answered OK
(R168, R172, R174). -/
def Obligations.ParkUnparkDormWake : Prop :=
  (∀ (s : State) (ln : Line), s.part.runner.state = .idle →
     let h := s.part.heard ln
     let e := s.part.engine
     (Takes s ln .park →
       (∀ x fs, Gives (.park (ownFrame ln) (x :: fs)) s ln .park .malformed [] h) ∧
       (∀ t n, e.motion ∈ [.slewing, .settling, .tracking, .keyhole] → e.target = some t → t.given.origin = .goto →
         t.given.record = some n → s.part.model.pending = false →
         ∃ q, exec (.park (ownFrame ln) []) s = .next { s with part := q } ∧
           q.engine = { e with
             motion := .parking, target := none, passage := none, request := none, arrivedAt := none, unparkAt := none,
             az := { e.az with captured := false, profile := none },
             el := { e.el with captured := false, profile := none } } ∧
           q.log = (match e.passage with
             | some w => s.part.log.change n fun r =>
                 { r with keyholeMs := r.keyholeMs + (s.part.clock.timeBase - w.entered) }
             | none => s.part.log).change n (fun r => r.close .ended s.part.stamp) ∧
           q.guide.accA = s.part.guide.accA ∧ q.guide.accE = s.part.guide.accE ∧ q.guide.allowed = false ∧
           q.runner = s.part.runner ∧ q.list = s.part.list ∧ q.faults = s.part.faults ∧ q.power = s.part.power ∧
           q.clock = s.part.clock ∧ q.wind = s.part.wind ∧ Replies q ln .park .ok []) ∧
       (e.motion ∈ [.ready, .unparking, .stopping] → e.target = none → e.passage = none → s.part.model.pending = false →
         Gives (.park (ownFrame ln) []) s ln .park .ok []
           { h with engine := { e with
             motion := .parking, request := none, arrivedAt := none, unparkAt := none,
             az := { e.az with captured := false, profile := none },
             el := { e.el with captured := false, profile := none } } }) ∧
       (e.motion ∈ [.parking, .parked, .dormant] → Gives (.park (ownFrame ln) []) s ln .park .ok [] h) ∧
       (e.motion ∈ [.unreferenced, .waking, .referencing] → Gives (.park (ownFrame ln) []) s ln .park .unref [] h) ∧
       (e.motion ∈ [.tripped, .backout] → Gives (.park (ownFrame ln) []) s ln .park .tripped [] h) ∧
       (e.motion ∈ [.stowing, .stowed] → Gives (.park (ownFrame ln) []) s ln .park .wind [] h))) ∧
  (∀ (s : State) (ln : Line) (t : Target) (n : Nat) (w : Entry), Takes s ln .park → s.part.runner.state.working = true →
     s.part.runner.ctx.record = some n → s.part.runner.ctx.id = some w.id → s.part.list.find w.id = some w →
     w.body ≠ .park → s.part.engine.motion ∈ [.slewing, .settling, .tracking] → s.part.engine.target = some t →
     t.given.record = some n → t.given.origin = .list w.id → s.part.engine.passage = none →
     s.part.model.pending = false →
     ∃ q, exec (.park (ownFrame ln) []) s = .next { s with part := q } ∧ s.part.Closed q n w.id .parked ∧
       q.runner.state = .held .park ∧ q.runner.ctx = RunCtx.blank ∧ q.runner.holdAfter = false ∧
       q.engine.motion = .parking ∧ q.engine.target = none ∧
       q.engine.az.demand = s.part.engine.az.demand ∧ q.engine.az.velocity = s.part.engine.az.velocity ∧
       q.engine.el.demand = s.part.engine.el.demand ∧ q.engine.el.velocity = s.part.engine.el.velocity ∧
       q.faults = s.part.faults ∧ q.power = s.part.power ∧ q.clock = s.part.clock ∧ Replies q ln .park .ok []) ∧
  (∀ (s : State) (ln : Line), Takes s ln .unpk →
     let h := s.part.heard ln
     let e := s.part.engine
     let there (x : AxisState) : AxisState :=
       { x with demand := x.actual.getD x.demand, velocity := 0, profile := none, captured := false }
     (∀ x fs, Gives (.unpk (ownFrame ln) (x :: fs)) s ln .unpk .malformed [] h) ∧
     (s.part.wind.hold = true → Gives (.unpk (ownFrame ln) []) s ln .unpk .wind [] h) ∧
     (s.part.wind.hold = false → s.part.countsTripped = true → Gives (.unpk (ownFrame ln) []) s ln .unpk .tripped [] h) ∧
     (s.part.wind.hold = false → s.part.countsTripped = false →
       (e.motion = .parked →
         Gives (.unpk (ownFrame ln) []) s ln .unpk .ok []
           { h with engine := { e with
             motion := .unparking, unparkAt := some s.part.clock.timeBase, az := there e.az, el := there e.el } }) ∧
       (e.motion = .unparking → Gives (.unpk (ownFrame ln) []) s ln .unpk .ok [] h) ∧
       (e.motion ∈ [.unreferenced, .waking, .referencing, .dormant] →
         Gives (.unpk (ownFrame ln) []) s ln .unpk .unref [] h) ∧
       (e.motion ∈ [.ready, .slewing, .settling, .tracking, .keyhole, .stopping, .parking, .stowing, .stowed] →
         Gives (.unpk (ownFrame ln) []) s ln .unpk .state [] h))) ∧
  (∀ (s : State) (ln : Line),
     let h := s.part.heard ln
     let e := s.part.engine
     let lost (x : AxisState) : AxisState := { x with referenced := false, actual := none, search := none }
     (Takes s ln .dorm →
       (e.motion = .parked → s.part.runner.state.atRest = true →
         Gives (.dorm (ownFrame ln) []) s ln .dorm .ok []
           { h with engine := { e with
             motion := .dormant, encodersOn := false, mismatch := false, az := lost e.az, el := lost e.el } }) ∧
       ((e.motion ≠ .parked ∨ s.part.runner.state.atRest = false) →
         Gives (.dorm (ownFrame ln) []) s ln .dorm .state [] h)) ∧
     (Takes s ln .wake →
       let wait : Ms := match s.part.power.waitCode with
         | 0 => 500
         | 1 => 1000
         | 2 => 2000
         | _ => 4000
       (e.motion = .dormant →
         Gives (.wake (ownFrame ln) []) s ln .wake .ok []
           { h with power := { s.part.power with wait := some (s.part.clock.timeBase, wait) },
                    engine := { e with motion := .waking, encodersOn := true } }) ∧
       (e.motion = .waking → Gives (.wake (ownFrame ln) []) s ln .wake .ok [] h) ∧
       (∀ f fs, Gives (.wake (ownFrame ln) (f :: fs)) s ln .wake .malformed [] h) ∧
       (e.motion ≠ .dormant → e.motion ≠ .waking → Gives (.wake (ownFrame ln) []) s ln .wake .state [] h)))

/-- REFR in UNREFERENCED starts both searches: elevation upward, azimuth toward its zero by WRAPSIDE, each the other way from
the start when its pre-limit is already ACTIVE; demands and readings count from 0 (R144). BACK of either axis: outside
TRIPPED and PARKED it is STATE, with ESTOP ACTIVE TRIPPED, with both or neither final limit of the axis ACTIVE STATE; with
one ACTIVE that axis alone moves away from it, from its actual position or, unreferenced, from a relative 0 (R146, R147; the
other axis's demand stays: the model's reading, log 40). INDEX_MARK on an axis while it searches and moves: the position at
the mark becomes the axis's index position, AZINDEX or ELINDEX, the demand is shifted by as much, and the axis is referenced;
the other axis and everything else stay (R145). The run's intervals: an axis still searching is brought to the creep speed in
its search direction, one that has found its index to rest, each at the acceleration; when both have found theirs and are at
rest the run is complete, READY with both axes referenced, and until then it goes on; each interval runs a whole 10 ms, the
first after REFR too (the model's choice, log 49). Stated with no hold in force and nothing waiting for the arrival (R35,
R145). -/
def Obligations.ReferenceRunAndBackout : Prop :=
  (∀ (s : State) (ln : Line),
     let h := s.part.heard ln
     let e := s.part.engine
     let limit (x : Axis) (d : Side) : Bool := s.part.active (preLimit x d)
     let from_ (x : AxisState) (d : Side) (turned : Bool) : AxisState :=
       { x with referenced := false, actual := none, zero := -x.encoder, demand := 0, velocity := 0, profile := none,
                captured := false, search := some { dir := d, reversed := turned, found := false } }
     (Takes s ln .refr → s.part.wind.hold = false → s.part.active .estop = false → s.part.faults.hasTrip = false →
       e.motion = .unreferenced →
       ∀ dz de : Side, (dz = .neg ↔ s.part.active .wrapSide = true) → de = .pos →
         let fz := if limit .az dz then dz.flip else dz
         let fe := if limit .el de then de.flip else de
         Gives (.refr (ownFrame ln) []) s ln .refr .ok [.text fz.word, .text fe.word]
           { h with engine := { e with
             motion := .referencing, halting := false, az := from_ e.az fz (limit .az dz),
             el := from_ e.el fe (limit .el de) } }) ∧
     (Takes s ln .back → ∀ a : Axis,
       let word := match a with
         | .az => "AZ"
         | .el => "EL"
       let ask : Instr := .back (ownFrame ln) [.word word]
       let final (d : Side) : Bool := s.part.active (match a, d with
         | .az, .pos => .azFinPos
         | .az, .neg => .azFinNeg
         | .el, .pos => .elFinHigh
         | .el, .neg => .elFinLow)
       let stands := e.motion = .tripped ∨ e.motion = .parked
       let x := match a with
         | .az => e.az
         | .el => e.el
       (¬stands → Gives ask s ln .back .state [] h) ∧
       (stands → s.part.active .estop = true → Gives ask s ln .back .tripped [] h) ∧
       (stands → s.part.active .estop = false → final .pos = final .neg → Gives ask s ln .back .state [] h) ∧
       (∀ d : Side, stands → s.part.active .estop = false → final d = true → final d.flip = false →
         (x.referenced = false → x.actual = none) →
         let from_ : Mas := if x.referenced then x.actual.getD x.demand else 0
         let y := { x with
           zero := if x.referenced then x.zero else -x.encoder,
           demand := from_, velocity := 0, profile := none, captured := false, overSince := none }
         Gives ask s ln .back .ok [.text word, .text d.flip.word]
           { h with engine := { e with
             motion := .backout, halting := false, backout := some { axis := a, dir := d.flip, start := from_ },
             az := if a = .az then y else e.az, el := if a = .el then y else e.el } }))) ∧
  (∀ (s : State) (axis : Axis) (raw : Int) (d : Search), s.part.power.powered = true → s.part.Noticed →
     s.part.engine.motion = .referencing → s.part.engine.halting = false →
     let e := s.part.engine
     let x : AxisState := match axis with
       | .az => e.az
       | .el => e.el
     let index : Mas := match axis with
       | .az => e.cfg.azIndex
       | .el => e.cfg.elIndex
     let shift := index - (raw + x.zero)
     let y := { x with
       zero := x.zero + shift, demand := x.demand + shift, profile := x.profile.map (fun q => q + shift * fx),
       referenced := true, search := some { d with found := true } }
     x.search = some d → d.found = false → x.velocity ≠ 0 →
     exec (.indexMark axis raw) s = .next { s with part := { s.part with engine := { e with
       az := if axis = .az then y else e.az, el := if axis = .el then y else e.el } } } ∧
     raw + y.zero = index ∧ y.demand - (raw + y.zero) = x.demand - (raw + x.zero)) ∧
  (∀ (s : State) (rawAz rawEl : Int) (da de : Search), s.part.power.powered = true → s.part.Noticed →
     s.part.intervalDue = true → s.part.engine.motion = .referencing → s.part.engine.halting = false →
     s.part.engine.az.search = some da → s.part.engine.el.search = some de →
     (s.part.engine.az.referenced = true →
       wrapDisagrees (s.part.active .wrapSide) (rawAz + s.part.engine.az.zero) = false) →
     s.part.wind.hold = false → s.part.engine.request = none → s.part.model.pending = false →
     s.part.power.restarting = false → s.part.engine.encodersOn = true → 0 < s.part.engine.cfg.accel →
     let e := s.part.engine
     let goal (d : Search) : Int := if d.found then 0 else match d.dir with
       | .pos => e.cfg.creep * fx
       | .neg => -(e.cfg.creep * fx)
     let va := broughtTo e.cfg.accel e.az.velocity (goal da)
     let ve := broughtTo e.cfg.accel e.el.velocity (goal de)
     ∃ q, exec (.demandInterval rawAz rawEl) s = .next { s with part := q } ∧
       q.engine.az.velocity = va ∧ q.engine.el.velocity = ve ∧
       q.engine.az.referenced = e.az.referenced ∧ q.engine.el.referenced = e.el.referenced ∧
       (da.found = true ∧ de.found = true ∧ va = 0 ∧ ve = 0 →
         q.engine.motion = .ready ∧ q.engine.az.search = none ∧ q.engine.el.search = none ∧ q.engine.target = none) ∧
       (¬(da.found = true ∧ de.found = true ∧ va = 0 ∧ ve = 0) →
         q.engine.motion = .referencing ∧ q.engine.az.search = some da ∧ q.engine.el.search = some de) ∧
       q.faults = s.part.faults ∧ q.list = s.part.list ∧ q.log = s.part.log ∧ q.runner = s.part.runner ∧
       q.inputs = s.part.inputs ∧ q.wind = s.part.wind ∧ q.power = s.part.power ∧ q.clock = s.part.clock ∧
       q.line = s.part.line)

/-- STOW is answered OK with HELD in every state (R150; the field: log 22). With no hold in force it starts one and its timer
and sets the cause WIND (R149). In READY, SLEWING, SETTLING, TRACKING and KEYHOLE the engine enters STOWING from the demands
and velocities it has, with no target; a GOTO record closes STOWED with its keyhole time, and a pending activation is made
(R24, R45, R66, R151). In every other state it carries on (R35, R151). A running runner closes a worked entry STOWED and is
HELD, reason WIND, to be resumed, but for a PARK entry, which runs on; an IDLE or HELD one stays (R119). Under a hold STOW
restarts the timer, and with WIND recognised ACTIVE changes nothing (R150). With a release time of 0 and WIND not ACTIVE the
hold so started or timed ends at once, the start's effects standing: a STOWED engine is READY, a STOWING one comes to rest
(READY at once: log 67), and the runner resumes where R119 lets it (R152; within the message: log 16).
WCFG (R153): RELEASE, AUTORES and DOMEWAIT, one to three of them in any order, are set and all three answered; an odd number
of fields, an unknown or repeated name or a value of the wrong kind is MALFORMED, then a value out of range RANGE, then a
write in progress BUSY. Under a hold a timer that has run for the release time now in force ends it, else it goes on; an
absence of DOME that has lasted the dome wait now in force is reported and closes the worked entry DOME_TIMEOUT, stated
while the engine slews, settles or tracks with no hold; both at once (log 16). -/
def Obligations.StowAndWindSettings : Prop :=
  ∀ (s : State) (ln : Line),
    let h := s.part.heard ln
    let w := s.part.wind
    let e := s.part.engine
    let run := s.part.runner
    let now := s.part.clock.timeBase
    let resting := e.az.velocity = 0 ∧ e.el.velocity = 0
    (Takes s ln .stow →
      let c : Instr := .stow (ownFrame ln) []
      let gusty := s.part.active .wind = true
      let begun : Wind := { w with hold := true, timer := if gusty then none else some now }
      let lifted : Wind := { w with hold := false, timer := none }
      let alarmed : Alerts := { s.part.alerts with wind := true }
      let moves : Bool := [Motion.ready, .slewing, .settling, .tracking, .keyhole].contains e.motion
      let stays : Bool := !run.state.running || s.part.parkCurrent
      let clear := e.motion = .stowed ∨ e.motion = .stowing → e.request = none ∧ e.passage = none
      (∃ q, exec c s = .next { s with part := q } ∧ Replies q ln .stow .ok [.text "HELD"]) ∧
      (w.hold = false → gusty ∨ 0 < w.release →
        (moves = false → (stays = true ∨ run.state.working = false) →
          Gives c s ln .stow .ok [.text "HELD"]
            { h with wind := begun, alerts := alarmed, runner := s.part.heldByWind }) ∧
        (moves = true → ∃ q, exec c s = .next { s with part := q } ∧ Replies q ln .stow .ok [.text "HELD"] ∧
          s.part.HoldTaken q begun .stowing ∧ q.guide.allowed = false)) ∧
      (w.hold = false → ¬gusty → w.release = 0 →
        (moves = false → (stays = true ∨ run.state.working = false) → clear →
          GivesReleased c s ln .stow .ok [.text "HELD"]
            { h with alerts := alarmed, runner := s.part.heldByWind }.holdOver) ∧
        (moves = true → ∃ q, s.part.HoldTaken q lifted (if resting then .ready else .stopping) ∧
          GivesReleased c s ln .stow .ok [.text "HELD"] q)) ∧
      (w.hold = true →
        (gusty → Gives c s ln .stow .ok [.text "HELD"] h) ∧
        (¬gusty → 0 < w.release →
          Gives c s ln .stow .ok [.text "HELD"] { h with wind := { w with timer := some now } }) ∧
        (¬gusty → w.release = 0 → clear → GivesReleased c s ln .stow .ok [.text "HELD"] h.holdOver))) ∧
    (Takes s ln .wcfg →
      let c (fs : List Field) : Instr := .wcfg (ownFrame ln) fs
      let shown (r : Int) (b : Bool) (d : Int) : List RField :=
        [.text "RELEASE", .num r, .text "AUTORES", .text (if b then "ON" else "OFF"), .text "DOMEWAIT", .num d]
      Gives (c []) s ln .wcfg .ok (shown w.release w.autoResume run.domeWait) h ∧
      (∀ fs : List Field, fs.length % 2 = 1 → Gives (c fs) s ln .wcfg .malformed [] h) ∧
      (∀ k v, k ∉ ["RELEASE", "AUTORES", "DOMEWAIT"] → Gives (c [.word k, v]) s ln .wcfg .malformed [] h) ∧
      (∀ k v u, Gives (c [.word k, v, .word k, u]) s ln .wcfg .malformed [] h) ∧
      (∀ v, Gives (c [.word "RELEASE", .word v]) s ln .wcfg .malformed [] h ∧
        Gives (c [.word "DOMEWAIT", .word v]) s ln .wcfg .malformed [] h ∧
        (v ≠ "ON" → v ≠ "OFF" → Gives (c [.word "AUTORES", .word v]) s ln .wcfg .malformed [] h)) ∧
      ∀ (release : Option Int) (resume : Option Bool) (wait : Option Int) (pairs : List (List Field)),
        pairs ≠ [] →
        pairs.Perm
          ((release.map fun n => [.word "RELEASE", .num n]).toList ++
           (resume.map fun b => [.word "AUTORES", .word (if b then "ON" else "OFF")]).toList ++
           (wait.map fun n => [.word "DOMEWAIT", .num n]).toList) →
        let ask := c pairs.flatten
        let r : Int := release.getD w.release
        let b : Bool := resume.getD w.autoResume
        let d : Int := wait.getD run.domeWait
        let put : Part := { h with wind := { w with release := r.toNat, autoResume := b },
                                   runner := { run with domeWait := d.toNat } }
        let due : Prop := w.hold = true ∧ ∃ k, w.timer = some k ∧ k + r.toNat ≤ now
        let gone : Prop := run.state.working = true ∧ ∃ k, run.ctx.domeFrom = some k ∧ k + d.toNat ≤ now
        ((∃ n, release = some n ∧ (n < 0 ∨ 3600000 < n)) ∨ (∃ n, wait = some n ∧ (n < 0 ∨ 600000 < n)) →
          Gives ask s ln .wcfg .range [] h) ∧
        (0 ≤ r → r ≤ 3600000 → 0 ≤ d → d ≤ 600000 →
          (s.part.power.writing ≠ none → Gives ask s ln .wcfg .busy [] h) ∧
          (s.part.power.writing = none →
            (∃ q, exec ask s = .next { s with part := q } ∧ Replies q ln .wcfg .ok (shown r b d)) ∧
            (¬due → ¬gone → Gives ask s ln .wcfg .ok (shown r b d) put) ∧
            (due → ¬gone → (e.motion = .stowed ∨ e.motion = .stowing → e.request = none ∧ e.passage = none) →
              GivesReleased ask s ln .wcfg .ok (shown r b d) put.holdOver) ∧
            (∀ t n id, gone → w.hold = false → run.ctx.id = some id → run.ctx.record = some n →
              e.motion = .slewing ∨ e.motion = .settling ∨ e.motion = .tracking → e.target = some t →
              t.given.origin = .list id → t.given.record = some n → e.passage = none →
              ∃ q, exec ask s = .next { s with part := q } ∧ Replies q ln .wcfg .ok (shown r b d) ∧
                s.part.Closed q n id .domeTimeout ∧ s.part.WentOn q ∧ q.runner.domeWait = d.toNat ∧ q.wind = put.wind ∧
                q.engine.motion = (if resting then .ready else .stopping) ∧ q.engine.target = none ∧
                q.engine.az.demand = e.az.demand ∧ q.engine.az.velocity = e.az.velocity ∧
                q.engine.el.demand = e.el.demand ∧ q.engine.el.velocity = e.el.velocity ∧
                q.faults = s.part.faults.record
                  { source := .list, reason := .domeTimeout, entry := some id, az := e.az.actual, el := e.el.actual }
                  s.part.stamp ∧
                q.alerts = s.part.alerts ∧ q.inputs = s.part.inputs ∧ q.power = s.part.power ∧
                q.clock = s.part.clock ∧ q.limits = s.part.limits))))

/-- STOR outside a write takes the snapshot, clears the mark and is WRITING from now; STOR,WAIT sets the code; during a
write both are BUSY (R176, R178, R179).
POWER_LOSS: the part does and sends nothing more; a store write in progress never ends, and the store and its mark
stay as they are (R176, R177). STORE_WRITE_END: the snapshot becomes the store and the mark is VALID (R176). Neither
touches anything else. -/
def Obligations.StoreWritesBeginAndEnd : Prop :=
  (∀ (s : State) (ln : Line), Takes s ln .stor →
     let h := s.part.heard ln
     let b := s.part.clock.timeBase
     (s.part.power.writing = none →
       Gives (.stor (ownFrame ln) []) s ln .stor .ok [.num b]
         { h with power := { s.part.power with mark := false, writing := some (b, snapshot s.part) } } ∧
       ∀ n : Nat, n ≤ 3 →
         Gives (.storWait (ownFrame ln) [.word "WAIT", .num n]) s ln .stor .ok [.num n]
           { h with power := { s.part.power with waitCode := n } }) ∧
     (s.part.power.writing ≠ none →
       Gives (.stor (ownFrame ln) []) s ln .stor .busy [] h ∧
       ∀ n : Nat, n ≤ 3 → Gives (.storWait (ownFrame ln) [.word "WAIT", .num n]) s ln .stor .busy [] h)) ∧
  (∀ s : State, s.part.power.powered = true → s.part.Noticed →
     exec .powerLoss s = .next { s with part := { s.part with
       power := { s.part.power with powered := false, writing := none },
       line := { s.part.line with a := { s.part.line.a with reply := none },
                                  b := { s.part.line.b with reply := none } } } } ∧
     (∀ b im, s.part.power.writing = some (b, im) →
       exec .storeWriteEnd s = .next { s with part := { s.part with
         power := { s.part.power with store := im, mark := true, writing := none } } }))

/-! ### Messages of the Night List and the List Runner (06, 07) -/

/-- QADD in one message, no option given: each kind makes an entry with a blank plan record at the tail, or with NEXT behind
the current entry, at position 2, or with none current at the head; the reply tells the id, the position and the count, and
the Planner is asked for a pass, whatever the runner's state; an id already listed is DUPLICATE and a full list FULL (R79,
R80, R81, R82, R94). The runner is told after it: IDLE, HELD or working an entry it does nothing; in EMPTY, and in WAITING and
INTERCEPT where the new entry is the head, it takes the head up as the step on the empty queue does (R102; that step is log
55's). -/
def Obligations.EntriesAreAdded : Prop :=
  ∀ (s : State) (ln : Line) (id : Nat), Takes s ln .qadd → s.part.list.draft = none → 1 ≤ id → id ≤ 65535 →
    let h := s.part.heard ln
    let l := s.part.list
    let entry (b : Body) : Entry :=
      { id := id, body := b,
        opts := { rates := none, notBefore := none, notAfter := none, giveUp := none, minAlt := none, group := none,
                  wrap := none, guide := false, hold := false },
        plan := { current := false, start := none, finish := none, outcome := none, side := none, keyhole := false,
                  altitude := none } }
    let listed (fs : List Field) (at_ : Nat) (es : List Entry) : Prop :=
      GivesList (.qadd (ownFrame ln) (.num id :: fs)) s ln .qadd .ok
        [.num id, .num at_, .num (l.entries.length + 1 : Nat)] (requestPass { h with list := { l with entries := es } })
    let tail (fs : List Field) (b : Body) : Prop :=
      (l.find id = none → l.entries.length < 96 → listed fs (l.entries.length + 1) (l.entries ++ [entry b])) ∧
      (l.find id ≠ none → Gives (.qadd (ownFrame ln) (.num id :: fs)) s ln .qadd .duplicate [] h) ∧
      (l.find id = none → 96 ≤ l.entries.length →
        Gives (.qadd (ownFrame ln) (.num id :: fs)) s ln .qadd .full [] h)
    let next (fs : List Field) (b : Body) : Prop :=
      (l.find id = none → l.entries.length < 96 → l.current = none → listed fs 1 (entry b :: l.entries)) ∧
      (∀ c x rest, l.find id = none → l.entries.length < 96 → l.current = some c → l.entries = x :: rest →
        listed fs 2 (x :: entry b :: rest))
    (∀ (a d : Int) (w : Nat), 0 ≤ a → a ≤ 1295999999 → -324000000 ≤ d → d ≤ 324000000 → 1000 ≤ w → w ≤ 7200000 →
      tail [.word "SKY", .num a, .num d, .num w] (.sky a d w) ∧
      next [.word "SKY", .num a, .num d, .num w, .word "NEXT"] (.sky a d w)) ∧
    (∀ (a d : Int) (w : Nat), 0 ≤ a → a ≤ 1295999999 → 0 ≤ d → d ≤ 324000000 → 1000 ≤ w → w ≤ 7200000 →
      tail [.word "ALTAZ", .num a, .num d, .num w] (.altaz a d w) ∧
      next [.word "ALTAZ", .num a, .num d, .num w, .word "NEXT"] (.altaz a d w)) ∧
    (∀ (a d : Int) (w : Nat), -972000000 ≤ a → a ≤ 972000000 → 0 ≤ d → d ≤ 325800000 → 1000 ≤ w → w ≤ 7200000 →
      azInside s.part.engine.cfg a = true → elInside s.part.engine.cfg d = true →
      tail [.word "AXIS", .num a, .num d, .num w] (.axis a d w) ∧
      next [.word "AXIS", .num a, .num d, .num w, .word "NEXT"] (.axis a d w)) ∧
    tail [.word "MARK"] .mark ∧ next [.word "MARK", .word "NEXT"] .mark ∧
    tail [.word "PARK"] .park ∧ next [.word "PARK", .word "NEXT"] .park

/-- The draft: an opening part with MORE makes it and is answered PENDING; a continuation of the same id and verb adds its
option; one that is MALFORMED discards it; one of another id is NOTFOUND and leaves it; and the last part makes the entry
(R80, R83, R84; what counts as a continuation is the model's reading, log 21). Stated for a SKY entry, in every state of the
runner, which is told of a new entry (R102). QSUB: the entry's fields are all replaced where it stands, its plan record
blank, and the Planner is asked for a pass; an id not listed is NOTFOUND and the current entry IN_USE (R89). The runner takes
it so: in WAITING a substitution of the head ends the old decision, and the entry is decided afresh on its new fields within
the same visit, as the step that takes up a head decides it (log 55), or, with the visit's intercept fired, without a stop at
its slot; in INTERCEPT, of another entry and in every other state it does nothing (R102). Stated for a MARK with HOLD and for
an ALTAZ target with a not-before in its place. -/
def Obligations.DraftsAndSubstitutions : Prop :=
  (∀ (s : State) (ln : Line) (id : Nat) (a d : Int) (w : Nat) (g : Nat), Takes s ln .qadd →
     1 ≤ id → id ≤ 65535 → 0 ≤ a → a ≤ 1295999999 → -324000000 ≤ d → d ≤ 324000000 → 1000 ≤ w → w ≤ 7200000 →
     1 ≤ g → g ≤ 255 →
     let h := s.part.heard ln
     let l := s.part.list
     let none_ : Opts := { rates := none, notBefore := none, notAfter := none, giveUp := none, minAlt := none,
                           group := none, wrap := none, guide := false, hold := false }
     let draft (o : Opts) : Draft := { id := id, verb := .add, body := .sky a d w, opts := o, next := false }
     let with_ (x : Option Draft) : Part := { h with list := { l with draft := x } }
     Gives (.qadd (ownFrame ln) [.num id, .word "SKY", .num a, .num d, .num w, .word "MORE"]) s ln .qadd .pending [.num id]
       (with_ (some (draft none_))) ∧
     (l.draft = none →
       Gives (.qadd (ownFrame ln) [.num id, .word "GRP", .num g]) s ln .qadd .notFound [] h) ∧
     (l.draft = some (draft none_) →
       Gives (.qadd (ownFrame ln) [.num id, .word "GRP", .num g, .word "MORE"]) s ln .qadd .pending [.num id]
         (with_ (some (draft { none_ with group := some g }))) ∧
       Gives (.qadd (ownFrame ln) [.num id, .word "NEXT"]) s ln .qadd .malformed [] (with_ none) ∧
       (∀ k : Nat, 1 ≤ k → k ≤ 65535 → k ≠ id →
         Gives (.qadd (ownFrame ln) [.num k, .word "GRP", .num g]) s ln .qadd .notFound [] h) ∧
       (l.find id = none → l.entries.length < 96 →
         let e : Entry := { id := id, body := .sky a d w, opts := { none_ with group := some g }, plan := PlanRec.blank }
         GivesList (.qadd (ownFrame ln) [.num id, .word "GRP", .num g]) s ln .qadd .ok
           [.num id, .num (l.entries.length + 1 : Nat), .num (l.entries.length + 1 : Nat)]
           (requestPass { h with list := { l with draft := none, entries := l.entries ++ [e] } })))) ∧
  (∀ (s : State) (ln : Line) (id : Nat), Takes s ln .qsub → s.part.list.draft = none → 1 ≤ id → id ≤ 65535 →
     let h := s.part.heard ln
     let l := s.part.list
     let run := s.part.runner
     let opts (nb : Option SiteTime) (hold : Bool) : Opts :=
       { rates := none, notBefore := nb, notAfter := none, giveUp := none, minAlt := none, group := none, wrap := none,
         guide := false, hold := hold }
     let subs (fs : List Field) (b : Body) (o : Opts) : Prop :=
       let e : Entry :=
         { id := id, body := b, opts := o,
           plan := { current := false, start := none, finish := none, outcome := none, side := none, keyhole := false,
                     altitude := none } }
       let c : Instr := .qsub (ownFrame ln) (.num id :: fs)
       let q := requestPass { h with list := { l with entries := l.entries.map fun x => if x.id = id then e else x } }
       let isHead := ∃ x rest, l.entries = x :: rest ∧ x.id = id
       (l.find id = none → Gives c s ln .qsub .notFound [] h) ∧
       (l.find id ≠ none → l.current = some id → Gives c s ln .qsub .inUse [] h) ∧
       (l.find id ≠ none → l.current ≠ some id → ¬(run.state = .waiting ∧ isHead) →
         Gives c s ln .qsub .ok [.num id, .num (l.position id)] q) ∧
       (∀ at_ est, l.current ≠ some id → run.state = .waiting → isHead → run.holdAfter = false →
         run.ctx = { RunCtx.blank with id := some id, startAt := at_, estimate := est } →
         ∃ w, step q.takingUp = .next { part := w, pending := [] } ∧
           Gives c s ln .qsub .ok [.num id, .num (l.position id)] w)
     subs [.word "MARK", .word "HOLD"] .mark (opts none true) ∧
     (∀ (a d t : Int) (w : Nat), 0 ≤ a → a ≤ 1295999999 → 0 ≤ d → d ≤ 324000000 → 1000 ≤ w → w ≤ 7200000 → 0 ≤ t →
       t ≤ 281474976710655 →
       subs [.word "ALTAZ", .num a, .num d, .num w, .word "NB", .num t] (.altaz a d w) (opts (some t) false)) ∧
     (∀ x rest, l.entries = x :: rest → x.id = id → l.current = none → run.state = .waiting → run.ctx.fired = true →
       s.part.log.Ok →
       ∃ q, exec (.qsub (ownFrame ln) [.num id, .word "MARK", .word "HOLD"]) s = .next { s with part := q } ∧
         q.runner = { run with state := .held .mark, holdAfter := false, ctx := RunCtx.blank } ∧
         q.alerts = { s.part.alerts with mark := true } ∧ q.engine = s.part.engine ∧
         q.list.entries.map Entry.id = (l.entries.map Entry.id).filter (fun k => k != id) ∧
         q.log.find s.part.log.next = some { RunRec.fresh s.part.log.next (.list id) .mark with
           ended := some s.part.stamp, outcome := some .markReached } ∧
         Replies q ln .qsub .ok [.num id, .num 1]) ∧
     Gives (.qsub (ownFrame ln) [.num id, .word "MARK", .word "NEXT"]) s ln .qsub .malformed [] h)

/-- QDEL, whatever the runner's state: ENTRY removes its entry, is NOTFOUND with count 0 for an id not listed, and IN_USE
with spared YES for the current one; GROUP and ALL remove every entry of their scope but the current one, count them and say
whether it was spared, and ask the Planner only when one went (R86, R87, R88). That a NOTFOUND carries the count alone, and
that GROUP and ALL remove all of their scope first, the runner taking up a head once, after the last removal, is the model's
reading (log 27). The runner is told after it: where the head of its visit in WAITING or INTERCEPT has gone, the visit ends
and it takes up the new head, or is EMPTY with the cause LIST_END, as the step on the empty queue does; IDLE, HELD or working
an entry it does nothing (R102; that step is log 55's, and so is its take-up at any change in the gap after a close). -/
def Obligations.EntriesAreDeleted : Prop :=
  ∀ (s : State) (ln : Line), Takes s ln .qdel →
    let h := s.part.heard ln
    let l := s.part.list
    let yes (b : Bool) : RField := .text (if b then "YES" else "NO")
    let without (goes : Entry → Bool) : Part :=
      requestPass { h with list := { l with entries := l.entries.filter fun e => !goes e } }
    let cleared (fs : List Field) (c : Arrival → List Field → Instr) (inScope : Entry → Bool) : Prop :=
      let goes (e : Entry) : Bool := inScope e && l.current != some e.id
      let out : List RField :=
        [.num (l.entries.filter goes).length, yes (l.entries.any fun e => inScope e && l.current == some e.id)]
      (l.entries.filter goes = [] → Gives (c (ownFrame ln) fs) s ln .qdel .ok out h) ∧
      (l.entries.filter goes ≠ [] → GivesList (c (ownFrame ln) fs) s ln .qdel .ok out (without goes))
    (∀ id : Nat, 1 ≤ id → id ≤ 65535 →
      (l.find id = none → Gives (.qdelEntry (ownFrame ln) [.word "ENTRY", .num id]) s ln .qdel .notFound [.num 0] h) ∧
      (l.find id ≠ none → l.current = some id →
        Gives (.qdelEntry (ownFrame ln) [.word "ENTRY", .num id]) s ln .qdel .inUse [.num 0, yes true] h) ∧
      (l.find id ≠ none → l.current ≠ some id →
        GivesList (.qdelEntry (ownFrame ln) [.word "ENTRY", .num id]) s ln .qdel .ok [.num 1, yes false]
          (without fun e => e.id == id))) ∧
    (∀ n : Nat, 1 ≤ n → n ≤ 255 →
      cleared [.word "GROUP", .num n] .qdelGroup (fun e => e.opts.group == some n)) ∧
    cleared [.word "ALL"] .qdelAll (fun _ => true)

/-- TRAP writes one slot: an id that no other slot holds enables it, ON and OFF keep the id, ON of an empty slot is STATE,
CLEAR empties and disables it; nothing else changes (R91, R92). -/
def Obligations.TrapsAreWritten : Prop :=
  ∀ (s : State) (ln : Line) (k : Nat) (x : Slot), Takes s ln .trap → k ≤ 3 → s.part.list.slots[k]? = some x →
    let h := s.part.heard ln
    let l := s.part.list
    let opt (x : Option Nat) : RField := match x with
      | some n => .num n
      | none => .absent
    let put (y : Slot) : Part := { h with list := { l with slots := l.slots.set k y } }
    let off : Slot := { x with on := false }
    let bare : Slot := { id := none, on := false }
    let shown (y : Slot) : List RField := [.num k, opt y.id, .text (if y.on then "ON" else "OFF")]
    (∀ id : Nat, 1 ≤ id → id ≤ 65535 →
      let y : Slot := { id := some id, on := true }
      ((∀ i z, i ≠ k → l.slots[i]? = some z → z.id ≠ some id) →
        Gives (.trapSet (ownFrame ln) [.num k, .num id]) s ln .trap .ok (shown y) (put y)) ∧
      (∀ i z, i ≠ k → l.slots[i]? = some z → z.id = some id →
        Gives (.trapSet (ownFrame ln) [.num k, .num id]) s ln .trap .duplicate [] h)) ∧
    (x.id ≠ none →
      let y : Slot := { x with on := true }
      Gives (.trapOn (ownFrame ln) [.num k, .word "ON"]) s ln .trap .ok (shown y) (put y)) ∧
    (x.id = none → Gives (.trapOn (ownFrame ln) [.num k, .word "ON"]) s ln .trap .state [] h) ∧
    Gives (.trapOff (ownFrame ln) [.num k, .word "OFF"]) s ln .trap .ok (shown off) (put off) ∧
    Gives (.trapClear (ownFrame ln) [.num k, .word "CLEAR"]) s ln .trap .ok (shown bare) (put bare)

/-- QRUN, QRES and QHLD. QRUN of an IDLE runner, and QRUN and QRES of a HELD one, are refused by R98's checks in their
order: clock, engine state, wind hold, trip; passing them over an empty list the runner is EMPTY, which sets the cause
LIST_END, and over a list with entries it takes up the head as the step that takes up a head does (log 55), whatever that
decides: where an enabled slot holds the head it is in INTERCEPT, which sets the cause INTERCEPT. A running
runner answers QRUN and is not moved. QRES of an INTERCEPT decides the head, a MARK with HOLD closing MARK_REACHED, and is
refused where nothing is held. QHLD holds at once in EMPTY, WAITING and INTERCEPT, marks a working entry, and is refused in
IDLE (R91, R98, R99, R100, R101, R103, R120; the field HELD without its reason is the model's reading, log 38). -/
def Obligations.RunHoldResume : Prop :=
  ∀ (s : State) (ln : Line),
    let h := s.part.heard ln
    let r := s.part.runner
    let l := s.part.list
    let emptied : Part := { h with
      runner := { r with state := .empty, holdAfter := false, windResume := false, ctx := RunCtx.blank },
      alerts := { s.part.alerts with listEnd := true } }
    let met (e : Entry) : Part := { h with
      runner := { r with state := .intercept, holdAfter := false, windResume := false,
                         ctx := { RunCtx.blank with id := some e.id, fired := true } },
      alerts := { s.part.alerts with intercept := true } }
    let still : Prop := s.part.engine.motion ∈ [.unreferenced, .waking, .referencing, .dormant, .parking]
    let ready := s.part.clock.isSet = true ∧ s.part.wind.hold = false ∧ s.part.countsTripped = false ∧ ¬still
    let held := ∃ x, r.state = .held x
    let refusals (c : Instr) (m : MsgName) : Prop :=
      (s.part.clock.isSet = false → Gives c s ln m .noClock [] h) ∧
      (s.part.clock.isSet = true → still → Gives c s ln m .state [] h) ∧
      (s.part.clock.isSet = true → ¬still → s.part.wind.hold = true → Gives c s ln m .wind [] h) ∧
      (s.part.clock.isSet = true → ¬still → s.part.wind.hold = false → s.part.countsTripped = true →
        Gives c s ln m .tripped [] h)
    (Takes s ln .qrun →
      (r.state = .idle ∨ held → refusals (.qrun (ownFrame ln) []) .qrun) ∧
      (r.state = .idle ∨ held → ready → l.entries = [] →
        Gives (.qrun (ownFrame ln) []) s ln .qrun .ok [.text "EMPTY"] (requestPass emptied)) ∧
      (∀ e rest, r.state = .idle ∨ held → ready → l.entries = e :: rest →
        (∃ x ∈ l.slots, x.on = true ∧ x.id = some e.id) →
        Gives (.qrun (ownFrame ln) []) s ln .qrun .ok [.text "INTERCEPT"] (requestPass (met e))) ∧
      (r.state.running = true → Gives (.qrun (ownFrame ln) []) s ln .qrun .ok [.text r.state.text] (requestPass h))) ∧
    (Takes s ln .qrun → r.state = .idle ∨ held → ready → l.entries ≠ [] →
      ∃ w, step h.startingUp = .next { part := w, pending := [] } ∧
        Gives (.qrun (ownFrame ln) []) s ln .qrun .ok [.text w.runner.state.text] (requestPass w)) ∧
    (Takes s ln .qres → held → ready → l.entries ≠ [] →
      ∃ w, step h.startingUp = .next { part := w, pending := [] } ∧
        Gives (.qres (ownFrame ln) []) s ln .qres .ok [.text w.runner.state.text] w) ∧
    (Takes s ln .qres →
      (held → refusals (.qres (ownFrame ln) []) .qres) ∧
      (held → ready → l.entries = [] →
        Gives (.qres (ownFrame ln) []) s ln .qres .ok [.text "EMPTY"] emptied) ∧
      (∀ e rest, held → ready → l.entries = e :: rest → (∃ x ∈ l.slots, x.on = true ∧ x.id = some e.id) →
        Gives (.qres (ownFrame ln) []) s ln .qres .ok [.text "INTERCEPT"] (met e)) ∧
      (∀ e, r.state = .intercept → r.ctx.id = some e.id → l.find e.id = some e → e.body = .mark → e.opts.hold = true →
        s.part.log.Ok →
        ∃ q, exec (.qres (ownFrame ln) []) s = .next { s with part := q } ∧ q.runner.state = .held .mark ∧
          q.alerts = { s.part.alerts with mark := true } ∧
          q.list.entries.map Entry.id = (l.entries.map Entry.id).filter (fun k => k != e.id) ∧
          q.log.next = s.part.log.next + 1 ∧
          q.log.find s.part.log.next = some { RunRec.fresh s.part.log.next (.list e.id) .mark with
            ended := some s.part.stamp, outcome := some .markReached } ∧
          q.engine = s.part.engine ∧ q.faults = s.part.faults ∧ Replies q ln .qres .ok [.text "HELD"]) ∧
      (r.state ∈ [.idle, .empty, .waiting, .acquiring, .observing] →
        Gives (.qres (ownFrame ln) []) s ln .qres .state [] h)) ∧
    (Takes s ln .qhld →
      (r.state ∈ [.empty, .waiting, .intercept] →
        Gives (.qhld (ownFrame ln) []) s ln .qhld .ok [.text "HELD"]
          { h with runner := { r with state := .held .host, holdAfter := false, ctx := RunCtx.blank } }) ∧
      (r.state = .acquiring ∨ r.state = .observing →
        Gives (.qhld (ownFrame ln) []) s ln .qhld .ok [.text r.state.text]
          { h with runner := { r with holdAfter := true } }) ∧
      (held → Gives (.qhld (ownFrame ln) []) s ln .qhld .ok [.text "HELD"]
        { h with runner := { r with state := .held .host, windResume := false } }) ∧
      (r.state = .idle → Gives (.qhld (ownFrame ln) []) s ln .qhld .state [] h))

/-- QSKP: a waiting or intercepted entry is skipped with a record closed at once; an entry observed on its target closes
SKIPPED_HOST with the engine going on, and one being acquired before its arrival with a slewing engine stopped. The runner
goes on within the message: with hold-after-current set it is HELD; else over an empty list it is EMPTY, with the cause
LIST_END, and before a head whose id an enabled slot holds it is in INTERCEPT, with its cause. In IDLE, EMPTY and HELD it is
refused (R91, R101, R108, R112, R115; that it goes on within the message is log 55's, and the field HELD without its reason
is the model's reading, log 38). -/
def Obligations.HeadIsSkipped : Prop :=
  ∀ (s : State) (ln : Line), Takes s ln .qskp →
    let ask : Instr := .qskp (ownFrame ln) []
    (s.part.runner.state = .idle ∨ s.part.runner.state = .empty ∨ (∃ x, s.part.runner.state = .held x) →
      Gives ask s ln .qskp .state [] (s.part.heard ln)) ∧
    (∀ (e : Entry) (w : RunState × RunCtx × Alerts), s.part.goneOnTo e.id = some w → s.part.runner.ctx.id = some e.id →
      s.part.list.find e.id = some e → s.part.log.Ok →
      let n := s.part.log.next
      let skipped (q : Part) : Prop :=
        exec ask s = .next { s with part := q } ∧ q.runner.state = w.1 ∧ q.runner.ctx = w.2.1 ∧
        q.runner.holdAfter = false ∧ q.alerts = w.2.2 ∧ q.faults = s.part.faults ∧
        Replies q ln .qskp .ok [.text w.1.text]
      (s.part.runner.state = .waiting ∨ s.part.runner.state = .intercept →
        ∃ q, skipped q ∧
          q.log.find n = some { RunRec.fresh n (.list e.id) e.body.kind with
            ended := some s.part.stamp, outcome := some .skippedHost } ∧
          q.list.entries.map Entry.id = (s.part.list.entries.map Entry.id).filter (fun k => k != e.id) ∧
          q.engine = s.part.engine) ∧
      (∀ k t, s.part.runner.state = .observing → s.part.runner.ctx.record = some k →
        s.part.engine.target = some t → t.given.record = some k → t.arrived = true → s.part.engine.passage = none →
        ∃ q, skipped q ∧ s.part.Closed q k e.id .skippedHost ∧
          q.engine = { s.part.engine with
            target := some { t with given := { t.given with record := none } }, request := none }) ∧
      (∀ k t, s.part.runner.state = .acquiring → s.part.runner.ctx.record = some k →
        s.part.engine.motion = .slewing → s.part.engine.target = some t → t.given.record = some k → t.arrived = false →
        s.part.engine.passage = none → s.part.engine.az.velocity ≠ 0 → s.part.model.pending = false →
        ∃ q, skipped q ∧ s.part.Closed q k e.id .skippedHost ∧ q.engine.motion = .stopping ∧ q.engine.target = none ∧
          q.engine.az.demand = s.part.engine.az.demand ∧ q.engine.az.velocity = s.part.engine.az.velocity ∧
          q.engine.el.demand = s.part.engine.el.demand ∧ q.engine.el.velocity = s.part.engine.el.velocity))

/-! ### Guiding (08) -/

/-- GUID with a correction while guiding is allowed: each component clipped to the max step replaces the remainder, the
correction is counted, and so are each clipped component and a remainder thrown away, and the counts are written into the
counted record; while it is not allowed the correction is DROPPED and nothing changes (R127, R128, R129, R132).
GCFG with no fields reads the enable, the rate and the max step; with one of the pairs ENABLE, RATE and STEP, or with all
three, it replaces what it names: RANGE comes before BUSY (R133). ENABLE OFF while guiding is allowed ends that and throws
the remainder away; ENABLE ON while the engine's last word allows it begins it, with counters at zero when the attached
record is not the counted one; RATE and STEP change nothing else (R125, R132, R133).
A ramp step of R130 and R131 on one axis: the offset stays within its bound; a step that stays inside moves the
remainder into the offset, none lost, by at most the step limit, and clears no more than it moves; one that would pass the
bound stops exactly there with the remainder 0. -/
def Obligations.CorrectionsAndRampSteps : Prop :=
  (∀ (s : State) (ln : Line),
     let h := s.part.heard ln
     let g := s.part.guide
     let clip (x : Int) : Int := if x < -g.step then -g.step else if g.step < x then g.step else x
     let beyond (x : Int) : Nat := if -g.step ≤ x ∧ x ≤ g.step then 0 else 1
     (Takes s ln .guid → ∀ a e : Int, -3600000 ≤ a → a ≤ 3600000 → -3600000 ≤ e → e ≤ 3600000 →
       (g.allowed = false → Gives (.guidCorrection (ownFrame ln) [.num a, .num e]) s ln .guid .dropped [] h) ∧
       (g.allowed = true →
         let thrown : Bool := !decide (g.remA = 0 ∧ g.remE = 0)
         let after : Guide := { g with
           remA := clip a, remE := clip e, applied := min 65535 (g.applied + 1),
           superseded := min 65535 (g.superseded + if thrown then 1 else 0),
           clipped := min 65535 (g.clipped + (beyond a + beyond e)) }
         let counts (r : RunRec) : RunRec := { r with
           applied := after.applied, superseded := after.superseded, clipped := after.clipped,
           saturated := g.saturated }
         Gives (.guidCorrection (ownFrame ln) [.num a, .num e]) s ln .guid .ok
           [.num (clip a), .num (clip e), .text (if thrown then "YES" else "NO")]
           { h with guide := after, log := match g.counted with
             | some n => s.part.log.change n counts
             | none => s.part.log })) ∧
     (Takes s ln .gcfg →
       let shown (b : Bool) (r x : Int) : List RField :=
         [.text "ENABLE", .text (if b then "ON" else "OFF"), .text "RATE", .num r, .text "STEP", .num x]
       let word (b : Bool) : Field := .word (if b then "ON" else "OFF")
       let now (b : Bool) (r x : Int) : Guide :=
         let c := { g with enable := b, rate := r, step := x, allowed := g.told && b }
         if g.allowed && !b then { c with remA := 0, remE := 0 }
         else if !g.allowed && (g.told && b) && g.counted != s.part.attached then
           { c with counted := s.part.attached, applied := 0, superseded := 0, clipped := 0, saturated := false }
         else c
       let gives (fs : List Field) (b : Bool) (r x : Int) : Prop :=
         Gives (.gcfg (ownFrame ln) fs) s ln .gcfg .ok (shown b r x) { h with guide := now b r x }
       Gives (.gcfg (ownFrame ln) []) s ln .gcfg .ok (shown g.enable g.rate g.step) h ∧
       (∀ (b : Bool) (r x : Int), (500 ≤ r ∧ r ≤ 60000) → (100 ≤ x ∧ x ≤ 60000) → s.part.power.writing = none →
         gives [.word "ENABLE", word b, .word "RATE", .num r, .word "STEP", .num x] b r x ∧
         (r = g.rate → x = g.step → gives [.word "ENABLE", word b] b r x) ∧
         (b = g.enable → x = g.step → gives [.word "RATE", .num r] b r x) ∧
         (b = g.enable → r = g.rate → gives [.word "STEP", .num x] b r x)) ∧
       (∀ (b : Bool) (r x : Int),
         let fs := [.word "ENABLE", word b, .word "RATE", .num r, .word "STEP", .num x]
         let inRange : Prop := (500 ≤ r ∧ r ≤ 60000) ∧ (100 ≤ x ∧ x ≤ 60000)
         (¬inRange → Gives (.gcfg (ownFrame ln) fs) s ln .gcfg .range [] h) ∧
         (inRange → s.part.power.writing ≠ none → Gives (.gcfg (ownFrame ln) fs) s ln .gcfg .busy [] h)))) ∧
  (∀ s acc rem : Int, 0 ≤ s → -60000 ≤ acc → acc ≤ 60000 →
     let r := rampStep s acc rem
     let step := if rem < -s then -s else if s < rem then s else rem
     (-60000 ≤ r.acc ∧ r.acc ≤ 60000) ∧
     (r.saturated = false → r.acc = acc + step ∧ r.acc + r.rem = acc + rem ∧ r.rem.natAbs ≤ rem.natAbs) ∧
     (r.saturated = true → r.rem = 0 ∧ (r.acc = 60000 ∧ 60000 < acc + step ∨ r.acc = -60000 ∧ acc + step < -60000)) ∧
     (rem.natAbs ≤ s.natAbs → r.rem = 0))

/-! ### Inputs, faults and alerts (09, 10) -/

/-- INCF of any of the twelve inputs. With the name alone it reads the input, in every state. POL HIGH or LOW and FILT, alone
or together, replace the polarity and the code: where either changes, the last sample is discarded and the recognised level is
kept. Checked in this order: FILT outside 0 to 7, and EN OFF for an input that is always enabled, are RANGE; a store write in
progress is BUSY; POL or FILT of an always-enabled input outside UNREFERENCED, PARKED, TRIPPED and DORMANT, and of WIND or
DOME while it is enabled, is BUSY (R138). EN ON of an enabled input, and EN OFF of a disabled one, change nothing. EN ON of a
disabled WIND or DOME recognises it INACTIVE with no last sample, and DOME so starts timing an absence of an entry with a
target, dwell stopping; EN OFF discards both, WIND so starting the release timer of a hold again and DOME ending an absence:
in TRACKING and KEYHOLE the runner enters OBSERVING (R110, R137, R148, R152; the instant of a change is not sampled any more,
log 9; an absence timed before TRACKING, log 29). -/
def Obligations.InputsAreConfigured : Prop :=
  ∀ (s : State) (ln : Line) (i : InputName), Takes s ln .incf →
    let h := s.part.heard ln
    let now := s.part.clock.timeBase
    let f := s.part.inputs.get i
    let run := s.part.runner
    let motion := s.part.engine.motion
    let ask (fs : List Field) : Instr := .incf (ownFrame ln) (.word (InputName.word i) :: fs)
    let switched : Prop := i = .wind ∨ i = .dome
    let level (p : Level) : String := match p with
      | .high => "HIGH"
      | .low => "LOW"
    let shown (f : Filter) : List RField :=
      [.text (InputName.word i), .text (level f.cfg.polarity), .num f.cfg.code, .text (if f.enabled then "ON" else "OFF"),
       .text (match f.recognised with
         | some true => "ACTIVE"
         | some false => "INACTIVE"
         | none => "OFF")]
    let put (f : Filter) : Part := { h with inputs := s.part.inputs.set i f }
    let set (cfg : FilterCfg) : Filter := if f.cfg = cfg then f else { f with cfg := cfg, last := none, sampledAt := some now }
    let free : Prop := (switched → f.enabled = false) ∧
      (¬switched → motion ∈ [.unreferenced, .parked, .tripped, .dormant])
    let on : Filter := { f with enabled := true, recognised := some false, last := none, sampledAt := some now }
    let off : Filter := { f with enabled := false, recognised := none, last := none }
    let EN (w : String) : Instr := ask [.word "EN", .word w]
    Gives (ask []) s ln .incf .ok (shown f) h ∧
    (∀ (p : Level) (n : Int),
      let both := ask [.word "POL", .word (level p), .word "FILT", .num n]
      (n < 0 ∨ 7 < n → Gives both s ln .incf .range [] h) ∧
      (0 ≤ n → n ≤ 7 →
        (s.part.power.writing ≠ none ∨ ¬free →
          Gives both s ln .incf .busy [] h ∧ Gives (ask [.word "POL", .word (level p)]) s ln .incf .busy [] h) ∧
        (s.part.power.writing = none → free →
          let g := set { polarity := p, code := n.toNat }
          let gp := set { polarity := p, code := f.cfg.code }
          let gf := set { polarity := f.cfg.polarity, code := n.toNat }
          Gives both s ln .incf .ok (shown g) (put g) ∧
          Gives (ask [.word "POL", .word (level p)]) s ln .incf .ok (shown gp) (put gp) ∧
          Gives (ask [.word "FILT", .num n]) s ln .incf .ok (shown gf) (put gf)))) ∧
    (¬switched → Gives (EN "OFF") s ln .incf .range [] h) ∧
    (s.part.power.writing ≠ none → Gives (EN "ON") s ln .incf .busy [] h ∧
      (switched → Gives (EN "OFF") s ln .incf .busy [] h)) ∧
    (s.part.power.writing = none →
      (f.enabled = true → Gives (EN "ON") s ln .incf .ok (shown f) h) ∧
      (switched → f.enabled = false → Gives (EN "OFF") s ln .incf .ok (shown f) h) ∧
      (i = .wind → f.enabled = false → Gives (EN "ON") s ln .incf .ok (shown on) (put on)) ∧
      (i = .wind → f.enabled = true →
        (s.part.wind.hold = false → Gives (EN "OFF") s ln .incf .ok (shown off) (put off)) ∧
        (s.part.wind.hold = true → 0 < s.part.wind.release → Gives (EN "OFF") s ln .incf .ok (shown off)
          { put off with wind := { s.part.wind with timer := some now } })) ∧
      (i = .dome → f.enabled = false →
        (run.state.working = false → Gives (EN "ON") s ln .incf .ok (shown on) (put on)) ∧
        (∀ e, run.state.working = true → run.ctx.id = some e.id → s.part.list.find e.id = some e → e.body ≠ .park →
          0 < run.domeWait ∨ run.ctx.domeFrom.isSome = true →
          Gives (EN "ON") s ln .incf .ok (shown on) { put on with runner := { run with ctx := { run.ctx with
            domeFrom := some (run.ctx.domeFrom.getD now), accum := s.part.dwellSoFar, countFrom := none } } })) ∧
      (i = .dome → f.enabled = true →
        (run.state.working = false → Gives (EN "OFF") s ln .incf .ok (shown off) (put off)) ∧
        (∀ start, run.state.working = true → run.ctx.domeFrom = some start → f.recognised = some false →
          (s.part.onEntry = true → motion = .tracking ∨ motion = .keyhole →
            Gives (EN "OFF") s ln .incf .ok (shown off) { put off with runner := { run with
              state := .observing, ctx := { run.ctx with
                domeFrom := none, observed := true, countFrom := if motion = .tracking then some now else none } } }) ∧
          (motion ≠ .tracking → motion ≠ .keyhole →
            Gives (EN "OFF") s ln .incf .ok (shown off) { put off with runner := { run with
              ctx := { run.ctx with domeFrom := none, observed := run.ctx.observed || s.part.trackedOnce } } }))))

/-- A report in the Fault Table (R155, R156, R157): one that matches a valid record by source and reason raises its
count, to 255 at most, and its last time, and nothing else of the table; one that matches none becomes the record at the
lowest free index, at the end of the creation order; one that finds no index free sets the overflow flag alone. Two
alike count as two, whichever is first; and what a report does beside the table is the same whatever the table held. -/
def Obligations.ReportsAreRecorded : Prop :=
  ∀ (ft : FaultTable) (r : Report) (t : Stamp),
    let known (x : FaultRec) : Prop := x.source = r.source ∧ x.reason = r.reason
    let q := ft.record r t
    (∀ i x, ft.Ok → ft.at_i i = some x → known x →
      q.at_i i = some { x with count := min 255 (x.count + 1), last := t } ∧
      (∀ j, j ≠ i → q.at_i j = ft.at_i j) ∧ q.order = ft.order ∧ q.overflow = ft.overflow) ∧
    ((∀ i x, ft.at_i i = some x → ¬known x) →
      (∀ i, i < ft.recs.length → ft.at_i i = none → (∀ j, j < i → ft.at_i j ≠ none) →
        q.at_i i = some { severity := r.reason.severity, source := r.source, reason := r.reason, first := t, last := t,
                          count := 1, entry := r.entry, az := r.az, el := r.el } ∧
        (∀ j, j ≠ i → q.at_i j = ft.at_i j) ∧ q.order = ft.order ++ [i] ∧ q.overflow = ft.overflow) ∧
      ((∀ i, i < ft.recs.length → ft.at_i i ≠ none) → q = { ft with overflow := true })) ∧
    (∀ i x u, ft.Ok → ft.at_i i = some x → known x →
      (q.record r u).at_i i = some { x with count := min 255 (x.count + 2), last := u }) ∧
    ∀ p : Part, report r { p with faults := ft } = { report r p with faults := ft.record r p.stamp }

/-- FACK of a record. A FINAL_LIMIT while either final limit of its source axis is ACTIVE, an ESTOP while ESTOP is ACTIVE,
and any record of severity TRIP in BACKOUT are refused with STATE, and nothing changes; every other record, of whatever
reason and severity, goes, its index leaves the creation order, and a WRAP_MISMATCH releases the latch of the cross-check
(R143, R159). The engine stays as it is, but in TRIPPED with no TRIP record and no overflow left it goes to PARKED when both
axes are referenced, else to WAKING while the encoder wait runs, else to UNREFERENCED (R145, R160, R171). Of an index with
no record it is NOTHING. FACK,OVF is NOTHING with the flag clear, STATE while ESTOP or any final limit is ACTIVE or in
BACKOUT, and else clears the flag, with the same way out of TRIPPED. Stated with no activation pending. -/
def Obligations.FaultsAreCleared : Prop :=
  ∀ (s : State) (ln : Line) (n : Nat), Takes s ln .fack → n ≤ 7 → s.part.model.pending = false →
    let h := s.part.heard ln
    let f := s.part.faults
    let e := s.part.engine
    let azFinal := s.part.active .azFinPos = true ∨ s.part.active .azFinNeg = true
    let elFinal := s.part.active .elFinHigh = true ∨ s.part.active .elFinLow = true
    let pressed := s.part.active .estop = true
    let ask : Instr := .fack (ownFrame ln) [.num n]
    let ovf : Instr := .fack (ownFrame ln) [.word "OVF"]
    let cleared : FaultTable := { f with recs := f.recs.set n none, order := f.order.filter fun i => i != n }
    let noFlag : FaultTable := { f with overflow := false }
    let left (ft : FaultTable) : Motion :=
      if e.motion = .tripped ∧ ft.hasTrip = false ∧ ft.overflow = false then
        if e.az.referenced = true ∧ e.el.referenced = true then .parked
        else if s.part.power.wait = none then .unreferenced else .waking
      else e.motion
    (f.at_i n = none → Gives ask s ln .fack .nothing [.num n] h) ∧
    (∀ r, f.at_i n = some r →
      let barred := (r.reason = .finalLimit ∧ (r.source = .azAxis ∧ azFinal ∨ r.source = .elAxis ∧ elFinal)) ∨
        (r.reason = .estop ∧ pressed) ∨ (r.severity = .trip ∧ e.motion = .backout)
      (barred → Gives ask s ln .fack .state [] h) ∧
      (¬barred → Gives ask s ln .fack .ok [.num n, .text (left cleared).word]
        { h with faults := cleared,
                 engine := { e with
                   motion := left cleared, mismatch := e.mismatch && r.reason != .wrapMismatch } })) ∧
    (f.overflow = false → Gives ovf s ln .fack .nothing [] h) ∧
    (f.overflow = true →
      let barred := pressed ∨ azFinal ∨ elFinal ∨ e.motion = .backout
      (barred → Gives ovf s ln .fack .state [] h) ∧
      (¬barred → Gives ovf s ln .fack .ok []
        { h with faults := noFlag, engine := { e with motion := left noFlag } }))

/-- ALRT sets and clears the mask, ACKA clears the causes it names and no other, ALL clears the five, and FAULT named is
RANGE; the ALERT line is up exactly while a cause is set and the mask is clear (R162, R163). -/
def Obligations.AlertsAreMaskedAndCleared : Prop :=
  ∀ (s : State) (ln : Line),
    let h := s.part.heard ln
    let a := s.part.alerts
    let with_ (x : Alerts) : Part := { h with alerts := x }
    let acked (w : String) (x : Alerts) : Prop :=
      Gives (.acka (ownFrame ln) [.word w]) s ln .acka .ok (causeFields (with_ x)) (with_ x)
    (Takes s ln .alrt →
      Gives (.alrtMask (ownFrame ln) [.word "MASK"]) s ln .alrt .ok (.text "SET" :: causeFields s.part)
        (with_ { a with masked := true }) ∧
      Gives (.alrtUnmask (ownFrame ln) [.word "UNMASK"]) s ln .alrt .ok (.text "CLEAR" :: causeFields s.part)
        (with_ { a with masked := false }) ∧
      (with_ { a with masked := true }).alertLine = false ∧
      (with_ { a with masked := false }).alertLine = (with_ a).anyCause) ∧
    (Takes s ln .acka →
      acked "MARK" { a with mark := false } ∧ acked "INTERCEPT" { a with intercept := false } ∧
      acked "LIST_END" { a with listEnd := false } ∧ acked "PLAN" { a with plan := false } ∧
      acked "WIND" { a with wind := false } ∧
      acked "ALL" { masked := a.masked, mark := false, intercept := false, listEnd := false, plan := false,
                    wind := false } ∧
      Gives (.acka (ownFrame ln) [.word "FAULT"]) s ln .acka .range [] h ∧
      Gives (.acka (ownFrame ln) []) s ln .acka .malformed [] h)

/-! ### Messages of the Line Interface (12) -/

/-- What taking a message comes to, whatever its owner does: on an unmuted line the effect, the flags, the last-message
record and the reply (begun in that step: log 36); on a muted line the same without the reply (R184, R188), STAT and LAST so
leaving nothing; and a broadcast of TIME, TRIM, STOW, STOP, PARK, LRST, MUTE or UNMT, muted or not, the same effect with
BCAST set, the record BROADCAST, and no reply, a taken LRST leaving both cleared (R182, R183, R190). MUTE and UNMT set and
clear the mute of the other line; LOCK from the other line locks and unlocks a name, is RANGE for LOCK, STAT and LRST and
STATE for the line it arrived on; LRST clears the mutes, the flags, the record and both partial frames, and keeps the locks
and the address (R188, R189, R190). STAT and LAST are answered and leave the flags and the last-message record as they were;
LOCK,line gives the names locked on that line in the order of the index (R187, R189). -/
def Obligations.LineMessages : Prop :=
  (∀ (s : State) (ln : Line) (m : MsgName) (fs : List Field), Hears s.part ln → s.part.Noticed →
     s.part.line.isLocked ln m = false → m ≠ .rset → ¬(m = .lrst ∧ fs = []) →
     let h := s.part.heard ln
     let a := ownerOf m ln fs h
     let effect : Part := notices a.part
     let sent (cast : Cast) : Part := { effect with line := { effect.line with
       msgErr := a.result.isErr, bcast := cast == .broadcast,
       last := some { name := .known m, line := ln, cast := cast, result := a.result } } }
     (∀ c, frameOf c = some (.known m, ownFrame ln, fs) → s.part.line.address ≠ 31 →
       (m ≠ .stat → m ≠ .last →
         ((s.part.line.get ln).muted = false → Gives c s ln m a.result a.fields effect) ∧
         ((s.part.line.get ln).muted = true → exec c s = .next { s with part := sent .addressed })) ∧
       (m = .stat ∨ m = .last → (s.part.line.get ln).muted = true → exec c s = .next { s with part := h })) ∧
     (∀ c, frameOf c = some (.known m, { line := ln, cast := .broadcast }, fs) →
       m ∈ [.time, .trim, .stow, .stop, .park, .lrst, .mute, .unmt] →
       exec c s = .next { s with part := sent .broadcast } ∧ ((sent .broadcast).line.get ln).reply = none)) ∧
  (∀ (s : State) (ln : Line), Hears s.part ln → s.part.Noticed → s.part.line.isLocked ln .lrst = false →
     let h := s.part.heard ln
     let reset (x : LineState) : LineState := { x with buffer := [], muted := false }
     exec (.lrst { line := ln, cast := .broadcast } []) s = .next { s with part := { h with line := { h.line with
       a := reset h.line.a, b := reset h.line.b, last := none, msgErr := false, bcast := false } } }) ∧
  (∀ (s : State) (ln : Line),
     let h := s.part.heard ln
     let l := h.line
     let mute (b : Bool) : Part := { h with line := l.set ln.other { l.get ln.other with muted := b } }
     (Takes s ln .mute → Gives (.mute (ownFrame ln) []) s ln .mute .ok [] (mute true)) ∧
     (Takes s ln .unmt → Gives (.unmt (ownFrame ln) []) s ln .unmt .ok [] (mute false)) ∧
     (Takes s ln .lock →
       let other : Field := .word (Line.word ln.other)
       let rest (m : MsgName) : List MsgName := (l.locks ln.other).filter fun x => x != m
       (∀ m, m ≠ .lock → m ≠ .stat → m ≠ .lrst →
         Gives (.lockWrite (ownFrame ln) [other, .word (MsgName.word m), .word "ON"]) s ln .lock .ok
           [.text (Line.word ln.other), .text (MsgName.word m), .text "ON"]
           { h with line := l.putLocks ln.other (m :: rest m) } ∧
         Gives (.lockWrite (ownFrame ln) [other, .word (MsgName.word m), .word "OFF"]) s ln .lock .ok
           [.text (Line.word ln.other), .text (MsgName.word m), .text "OFF"]
           { h with line := l.putLocks ln.other (rest m) } ∧
         Gives (.lockWrite (ownFrame ln) [.word (Line.word ln), .word (MsgName.word m), .word "ON"]) s ln .lock .state []
           h) ∧
       (∀ m, m = .lock ∨ m = .stat ∨ m = .lrst →
         Gives (.lockWrite (ownFrame ln) [other, .word (MsgName.word m), .word "ON"]) s ln .lock .range [] h)) ∧
     (Takes s ln .lrst →
       let reset (x : LineState) : LineState := { x with buffer := [], muted := false }
       let q : Part := { h with line := { l with
         a := reset l.a, b := reset l.b, last := none, msgErr := false, bcast := false } }
       exec (.lrst (ownFrame ln) []) s = .next { s with part := q.replied ln .lrst .ok [] })) ∧
  (∀ (s : State) (ln : Line), s.part.Noticed →
     let h := s.part.heard ln
     (Answers s.part ln .stat →
       exec (.stat (ownFrame ln) []) s = .next { s with part := h.replied ln .stat .ok [] } ∧
       (h.replied ln .stat .ok []).line.last = s.part.line.last ∧
       (h.replied ln .stat .ok []).line.msgErr = s.part.line.msgErr ∧
       (h.replied ln .stat .ok []).line.bcast = s.part.line.bcast) ∧
     (Answers s.part ln .last →
       let told (out : List RField) : State := { s with part := h.replied ln .last .ok out }
       let line (x : Line) : String := match x with
         | .a => "A"
         | .b => "B"
       let sent (x : Cast) : String := match x with
         | .addressed => "ADDRESSED"
         | .broadcast => "BROADCAST"
       (s.part.line.last = none →
         exec (.last (ownFrame ln) []) s = .next (told [.absent, .absent, .absent, .absent])) ∧
       (∀ m, s.part.line.last = some m →
         exec (.last (ownFrame ln) []) s = .next (told
           [.text (Name.word m.name), .text (line m.line), .text (sent m.cast), .text m.result.word]))) ∧
     (Answers s.part ln .lock →
       let names (on : Line) : List MsgName := MsgName.all.filter fun m => s.part.line.isLocked on m
       Gives (.lockRead (ownFrame ln) [.word "A"]) s ln .lock .ok
         ([.text "A", .num (names .a).length] ++ (names .a).map (fun m => .text (MsgName.word m))) h ∧
       Gives (.lockRead (ownFrame ln) [.word "B"]) s ln .lock .ok
         ([.text "B", .num (names .b).length] ++ (names .b).map (fun m => .text (MsgName.word m))) h))

/-! ### What every step keeps -/

/-- The Fault Table keeps its form (eight places, one record per source and reason, counts of 1 to 255, each valid index
once in the creation order), and the Guide Unit its bounds (R124, R131, R154, R155). -/
def Obligations.StepKeepsFaultsAndGuide : Prop :=
  ∀ s t : State, step s = .next t → s.part.faults.Ok → s.part.guide.Ok → t.part.faults.Ok ∧ t.part.guide.Ok

/-- The Run Log keeps its form; sequence numbers only rise, and unless power is applied afresh no record once closed or
superseded is reopened or given another end. Where the engine has a target exactly while it follows one, the ring keeps at
most 64 records with at most one open, and an open record is the followed GOTO target's, or the worked entry's (R45, R97,
R164, R166). -/
def Obligations.StepKeepsRunLog : Prop :=
  ∀ s t : State, step s = .next t → s.part.log.Ok →
    t.part.log.Ok ∧ ((∀ a, s.pending.head? ≠ some (.powerOn a)) → s.part.log.Continues t.part.log) ∧
    (s.part.EngineOk → s.part.RecordsOk → t.part.RecordsOk)

/-- The Night List holds at most 96 entries of distinct ids, and the four slots distinct ids, an empty one disabled (R78,
R91). -/
def Obligations.StepKeepsNightList : Prop :=
  ∀ s t : State, step s = .next t → s.part.list.Ok → t.part.list.Ok

/-- The Motion Engine has a target exactly while it heads for or follows one, and no slew, track, passage, stow, park,
unpark or reference run is in progress while ESTOP is recognised ACTIVE or a TRIP record is valid (R27, R49). From the taking
of an RSET to its re-initialisation no slew, track, passage or park goes on, and a stow, a reference run or a backout is being
brought to rest, whatever the events of the stop set moving (R54, R175; log 14). -/
def Obligations.StepKeepsEngine : Prop :=
  ∀ s t : State, step s = .next t →
    (s.part.EngineOk → t.part.EngineOk) ∧ (s.part.RestartOk → t.part.RestartOk)

/-- Every setting, in force, stored or staged, stays in its range, the limits in their order, and the ten inputs that are
always enabled stay so (R9, R22, R50, R68, R124, R135, R149, R168). -/
def Obligations.StepKeepsConfiguration : Prop :=
  ∀ s t : State, step s = .next t → s.part.ConfigOk → t.part.ConfigOk

/-- After every step guiding is allowed exactly under R34's conditions with the enable ON, and dwell is counted exactly
while R111 has it (R34, R111, R125). -/
def Obligations.StepKeepsNotices : Prop :=
  ∀ s t : State, step s = .next t → s.part.Noticed → t.part.Noticed
end

