-- ==== Sys2Proof/Laws/State.lean ====
section
/-! SUPPORT. One lemma per field per named update, each true by unfolding the update once, so that no later proof unfolds
a record update. -/

namespace Sys2Proof.Machine

/-! ### The engine replaced -/

@[simp] theorem Part.withEngine_power (p : Part) (e : Engine) : (p.withEngine e).power = p.power := rfl
@[simp] theorem Part.withEngine_clock (p : Part) (e : Engine) : (p.withEngine e).clock = p.clock := rfl
@[simp] theorem Part.withEngine_site (p : Part) (e : Engine) : (p.withEngine e).site = p.site := rfl
@[simp] theorem Part.withEngine_lastAz (p : Part) (e : Engine) : (p.withEngine e).lastAz = p.lastAz := rfl
@[simp] theorem Part.withEngine_model (p : Part) (e : Engine) : (p.withEngine e).model = p.model := rfl
@[simp] theorem Part.withEngine_engine (p : Part) (e : Engine) : (p.withEngine e).engine = e := rfl
@[simp] theorem Part.withEngine_limits (p : Part) (e : Engine) : (p.withEngine e).limits = p.limits := rfl
@[simp] theorem Part.withEngine_list (p : Part) (e : Engine) : (p.withEngine e).list = p.list := rfl
@[simp] theorem Part.withEngine_runner (p : Part) (e : Engine) : (p.withEngine e).runner = p.runner := rfl
@[simp] theorem Part.withEngine_planner (p : Part) (e : Engine) : (p.withEngine e).planner = p.planner := rfl
@[simp] theorem Part.withEngine_guide (p : Part) (e : Engine) : (p.withEngine e).guide = p.guide := rfl
@[simp] theorem Part.withEngine_inputs (p : Part) (e : Engine) : (p.withEngine e).inputs = p.inputs := rfl
@[simp] theorem Part.withEngine_wind (p : Part) (e : Engine) : (p.withEngine e).wind = p.wind := rfl
@[simp] theorem Part.withEngine_faults (p : Part) (e : Engine) : (p.withEngine e).faults = p.faults := rfl
@[simp] theorem Part.withEngine_alerts (p : Part) (e : Engine) : (p.withEngine e).alerts = p.alerts := rfl
@[simp] theorem Part.withEngine_log (p : Part) (e : Engine) : (p.withEngine e).log = p.log := rfl
@[simp] theorem Part.withEngine_line (p : Part) (e : Engine) : (p.withEngine e).line = p.line := rfl

/-! ### Updates of the log -/

@[simp] theorem changeRecord_power (n : Option Nat) (f : RunRec → RunRec) (p : Part) :
    (changeRecord n f p).power = p.power := by cases n <;> rfl
@[simp] theorem changeRecord_clock (n : Option Nat) (f : RunRec → RunRec) (p : Part) :
    (changeRecord n f p).clock = p.clock := by cases n <;> rfl
@[simp] theorem changeRecord_site (n : Option Nat) (f : RunRec → RunRec) (p : Part) :
    (changeRecord n f p).site = p.site := by cases n <;> rfl
@[simp] theorem changeRecord_lastAz (n : Option Nat) (f : RunRec → RunRec) (p : Part) :
    (changeRecord n f p).lastAz = p.lastAz := by cases n <;> rfl
@[simp] theorem changeRecord_model (n : Option Nat) (f : RunRec → RunRec) (p : Part) :
    (changeRecord n f p).model = p.model := by cases n <;> rfl
@[simp] theorem changeRecord_engine (n : Option Nat) (f : RunRec → RunRec) (p : Part) :
    (changeRecord n f p).engine = p.engine := by cases n <;> rfl
@[simp] theorem changeRecord_limits (n : Option Nat) (f : RunRec → RunRec) (p : Part) :
    (changeRecord n f p).limits = p.limits := by cases n <;> rfl
@[simp] theorem changeRecord_list (n : Option Nat) (f : RunRec → RunRec) (p : Part) :
    (changeRecord n f p).list = p.list := by cases n <;> rfl
@[simp] theorem changeRecord_runner (n : Option Nat) (f : RunRec → RunRec) (p : Part) :
    (changeRecord n f p).runner = p.runner := by cases n <;> rfl
@[simp] theorem changeRecord_planner (n : Option Nat) (f : RunRec → RunRec) (p : Part) :
    (changeRecord n f p).planner = p.planner := by cases n <;> rfl
@[simp] theorem changeRecord_guide (n : Option Nat) (f : RunRec → RunRec) (p : Part) :
    (changeRecord n f p).guide = p.guide := by cases n <;> rfl
@[simp] theorem changeRecord_inputs (n : Option Nat) (f : RunRec → RunRec) (p : Part) :
    (changeRecord n f p).inputs = p.inputs := by cases n <;> rfl
@[simp] theorem changeRecord_wind (n : Option Nat) (f : RunRec → RunRec) (p : Part) :
    (changeRecord n f p).wind = p.wind := by cases n <;> rfl
@[simp] theorem changeRecord_faults (n : Option Nat) (f : RunRec → RunRec) (p : Part) :
    (changeRecord n f p).faults = p.faults := by cases n <;> rfl
@[simp] theorem changeRecord_alerts (n : Option Nat) (f : RunRec → RunRec) (p : Part) :
    (changeRecord n f p).alerts = p.alerts := by cases n <;> rfl
@[simp] theorem changeRecord_line (n : Option Nat) (f : RunRec → RunRec) (p : Part) :
    (changeRecord n f p).line = p.line := by cases n <;> rfl
@[simp] theorem closeRecord_power (n : Option Nat) (o : Ending) (p : Part) :
    (closeRecord n o p).power = p.power := changeRecord_power _ _ p
@[simp] theorem closeRecord_clock (n : Option Nat) (o : Ending) (p : Part) :
    (closeRecord n o p).clock = p.clock := changeRecord_clock _ _ p
@[simp] theorem closeRecord_site (n : Option Nat) (o : Ending) (p : Part) :
    (closeRecord n o p).site = p.site := changeRecord_site _ _ p
@[simp] theorem closeRecord_lastAz (n : Option Nat) (o : Ending) (p : Part) :
    (closeRecord n o p).lastAz = p.lastAz := changeRecord_lastAz _ _ p
@[simp] theorem closeRecord_model (n : Option Nat) (o : Ending) (p : Part) :
    (closeRecord n o p).model = p.model := changeRecord_model _ _ p
@[simp] theorem closeRecord_engine (n : Option Nat) (o : Ending) (p : Part) :
    (closeRecord n o p).engine = p.engine := changeRecord_engine _ _ p
@[simp] theorem closeRecord_limits (n : Option Nat) (o : Ending) (p : Part) :
    (closeRecord n o p).limits = p.limits := changeRecord_limits _ _ p
@[simp] theorem closeRecord_list (n : Option Nat) (o : Ending) (p : Part) :
    (closeRecord n o p).list = p.list := changeRecord_list _ _ p
@[simp] theorem closeRecord_runner (n : Option Nat) (o : Ending) (p : Part) :
    (closeRecord n o p).runner = p.runner := changeRecord_runner _ _ p
@[simp] theorem closeRecord_planner (n : Option Nat) (o : Ending) (p : Part) :
    (closeRecord n o p).planner = p.planner := changeRecord_planner _ _ p
@[simp] theorem closeRecord_guide (n : Option Nat) (o : Ending) (p : Part) :
    (closeRecord n o p).guide = p.guide := changeRecord_guide _ _ p
@[simp] theorem closeRecord_inputs (n : Option Nat) (o : Ending) (p : Part) :
    (closeRecord n o p).inputs = p.inputs := changeRecord_inputs _ _ p
@[simp] theorem closeRecord_wind (n : Option Nat) (o : Ending) (p : Part) :
    (closeRecord n o p).wind = p.wind := changeRecord_wind _ _ p
@[simp] theorem closeRecord_faults (n : Option Nat) (o : Ending) (p : Part) :
    (closeRecord n o p).faults = p.faults := changeRecord_faults _ _ p
@[simp] theorem closeRecord_alerts (n : Option Nat) (o : Ending) (p : Part) :
    (closeRecord n o p).alerts = p.alerts := changeRecord_alerts _ _ p
@[simp] theorem closeRecord_line (n : Option Nat) (o : Ending) (p : Part) :
    (closeRecord n o p).line = p.line := changeRecord_line _ _ p
@[simp] theorem supersedeRecord_power (n : Option Nat) (k : Nat) (p : Part) :
    (supersedeRecord n k p).power = p.power := changeRecord_power _ _ p
@[simp] theorem supersedeRecord_clock (n : Option Nat) (k : Nat) (p : Part) :
    (supersedeRecord n k p).clock = p.clock := changeRecord_clock _ _ p
@[simp] theorem supersedeRecord_site (n : Option Nat) (k : Nat) (p : Part) :
    (supersedeRecord n k p).site = p.site := changeRecord_site _ _ p
@[simp] theorem supersedeRecord_lastAz (n : Option Nat) (k : Nat) (p : Part) :
    (supersedeRecord n k p).lastAz = p.lastAz := changeRecord_lastAz _ _ p
@[simp] theorem supersedeRecord_model (n : Option Nat) (k : Nat) (p : Part) :
    (supersedeRecord n k p).model = p.model := changeRecord_model _ _ p
@[simp] theorem supersedeRecord_engine (n : Option Nat) (k : Nat) (p : Part) :
    (supersedeRecord n k p).engine = p.engine := changeRecord_engine _ _ p
@[simp] theorem supersedeRecord_limits (n : Option Nat) (k : Nat) (p : Part) :
    (supersedeRecord n k p).limits = p.limits := changeRecord_limits _ _ p
@[simp] theorem supersedeRecord_list (n : Option Nat) (k : Nat) (p : Part) :
    (supersedeRecord n k p).list = p.list := changeRecord_list _ _ p
@[simp] theorem supersedeRecord_runner (n : Option Nat) (k : Nat) (p : Part) :
    (supersedeRecord n k p).runner = p.runner := changeRecord_runner _ _ p
@[simp] theorem supersedeRecord_planner (n : Option Nat) (k : Nat) (p : Part) :
    (supersedeRecord n k p).planner = p.planner := changeRecord_planner _ _ p
@[simp] theorem supersedeRecord_guide (n : Option Nat) (k : Nat) (p : Part) :
    (supersedeRecord n k p).guide = p.guide := changeRecord_guide _ _ p
@[simp] theorem supersedeRecord_inputs (n : Option Nat) (k : Nat) (p : Part) :
    (supersedeRecord n k p).inputs = p.inputs := changeRecord_inputs _ _ p
@[simp] theorem supersedeRecord_wind (n : Option Nat) (k : Nat) (p : Part) :
    (supersedeRecord n k p).wind = p.wind := changeRecord_wind _ _ p
@[simp] theorem supersedeRecord_faults (n : Option Nat) (k : Nat) (p : Part) :
    (supersedeRecord n k p).faults = p.faults := changeRecord_faults _ _ p
@[simp] theorem supersedeRecord_alerts (n : Option Nat) (k : Nat) (p : Part) :
    (supersedeRecord n k p).alerts = p.alerts := changeRecord_alerts _ _ p
@[simp] theorem supersedeRecord_line (n : Option Nat) (k : Nat) (p : Part) :
    (supersedeRecord n k p).line = p.line := changeRecord_line _ _ p
@[simp] theorem createRecord_power (o : Origin) (k : Kind) (p : Part) :
    (createRecord o k p).power = p.power := rfl
@[simp] theorem createRecord_clock (o : Origin) (k : Kind) (p : Part) :
    (createRecord o k p).clock = p.clock := rfl
@[simp] theorem createRecord_site (o : Origin) (k : Kind) (p : Part) : (createRecord o k p).site = p.site := rfl
@[simp] theorem createRecord_lastAz (o : Origin) (k : Kind) (p : Part) :
    (createRecord o k p).lastAz = p.lastAz := rfl
@[simp] theorem createRecord_model (o : Origin) (k : Kind) (p : Part) :
    (createRecord o k p).model = p.model := rfl
@[simp] theorem createRecord_engine (o : Origin) (k : Kind) (p : Part) :
    (createRecord o k p).engine = p.engine := rfl
@[simp] theorem createRecord_limits (o : Origin) (k : Kind) (p : Part) :
    (createRecord o k p).limits = p.limits := rfl
@[simp] theorem createRecord_list (o : Origin) (k : Kind) (p : Part) : (createRecord o k p).list = p.list := rfl
@[simp] theorem createRecord_runner (o : Origin) (k : Kind) (p : Part) :
    (createRecord o k p).runner = p.runner := rfl
@[simp] theorem createRecord_planner (o : Origin) (k : Kind) (p : Part) :
    (createRecord o k p).planner = p.planner := rfl
@[simp] theorem createRecord_guide (o : Origin) (k : Kind) (p : Part) :
    (createRecord o k p).guide = p.guide := rfl
@[simp] theorem createRecord_inputs (o : Origin) (k : Kind) (p : Part) :
    (createRecord o k p).inputs = p.inputs := rfl
@[simp] theorem createRecord_wind (o : Origin) (k : Kind) (p : Part) : (createRecord o k p).wind = p.wind := rfl
@[simp] theorem createRecord_faults (o : Origin) (k : Kind) (p : Part) :
    (createRecord o k p).faults = p.faults := rfl
@[simp] theorem createRecord_alerts (o : Origin) (k : Kind) (p : Part) :
    (createRecord o k p).alerts = p.alerts := rfl
@[simp] theorem createRecord_line (o : Origin) (k : Kind) (p : Part) : (createRecord o k p).line = p.line := rfl
@[simp] theorem createClosed_power (o : Origin) (k : Kind) (e : Ending) (p : Part) :
    (createClosed o k e p).power = p.power := closeRecord_power _ _ _
@[simp] theorem createClosed_clock (o : Origin) (k : Kind) (e : Ending) (p : Part) :
    (createClosed o k e p).clock = p.clock := closeRecord_clock _ _ _
@[simp] theorem createClosed_site (o : Origin) (k : Kind) (e : Ending) (p : Part) :
    (createClosed o k e p).site = p.site := closeRecord_site _ _ _
@[simp] theorem createClosed_lastAz (o : Origin) (k : Kind) (e : Ending) (p : Part) :
    (createClosed o k e p).lastAz = p.lastAz := closeRecord_lastAz _ _ _
@[simp] theorem createClosed_model (o : Origin) (k : Kind) (e : Ending) (p : Part) :
    (createClosed o k e p).model = p.model := closeRecord_model _ _ _
@[simp] theorem createClosed_engine (o : Origin) (k : Kind) (e : Ending) (p : Part) :
    (createClosed o k e p).engine = p.engine := closeRecord_engine _ _ _
@[simp] theorem createClosed_limits (o : Origin) (k : Kind) (e : Ending) (p : Part) :
    (createClosed o k e p).limits = p.limits := closeRecord_limits _ _ _
@[simp] theorem createClosed_list (o : Origin) (k : Kind) (e : Ending) (p : Part) :
    (createClosed o k e p).list = p.list := closeRecord_list _ _ _
@[simp] theorem createClosed_runner (o : Origin) (k : Kind) (e : Ending) (p : Part) :
    (createClosed o k e p).runner = p.runner := closeRecord_runner _ _ _
@[simp] theorem createClosed_planner (o : Origin) (k : Kind) (e : Ending) (p : Part) :
    (createClosed o k e p).planner = p.planner := closeRecord_planner _ _ _
@[simp] theorem createClosed_guide (o : Origin) (k : Kind) (e : Ending) (p : Part) :
    (createClosed o k e p).guide = p.guide := closeRecord_guide _ _ _
@[simp] theorem createClosed_inputs (o : Origin) (k : Kind) (e : Ending) (p : Part) :
    (createClosed o k e p).inputs = p.inputs := closeRecord_inputs _ _ _
@[simp] theorem createClosed_wind (o : Origin) (k : Kind) (e : Ending) (p : Part) :
    (createClosed o k e p).wind = p.wind := closeRecord_wind _ _ _
@[simp] theorem createClosed_faults (o : Origin) (k : Kind) (e : Ending) (p : Part) :
    (createClosed o k e p).faults = p.faults := closeRecord_faults _ _ _
@[simp] theorem createClosed_alerts (o : Origin) (k : Kind) (e : Ending) (p : Part) :
    (createClosed o k e p).alerts = p.alerts := closeRecord_alerts _ _ _
@[simp] theorem createClosed_line (o : Origin) (k : Kind) (e : Ending) (p : Part) :
    (createClosed o k e p).line = p.line := closeRecord_line _ _ _
@[simp] theorem writeCounters_power (p : Part) : (writeCounters p).power = p.power := changeRecord_power _ _ p
@[simp] theorem writeCounters_clock (p : Part) : (writeCounters p).clock = p.clock := changeRecord_clock _ _ p
@[simp] theorem writeCounters_site (p : Part) : (writeCounters p).site = p.site := changeRecord_site _ _ p
@[simp] theorem writeCounters_lastAz (p : Part) :
    (writeCounters p).lastAz = p.lastAz := changeRecord_lastAz _ _ p
@[simp] theorem writeCounters_model (p : Part) : (writeCounters p).model = p.model := changeRecord_model _ _ p
@[simp] theorem writeCounters_engine (p : Part) :
    (writeCounters p).engine = p.engine := changeRecord_engine _ _ p
@[simp] theorem writeCounters_limits (p : Part) :
    (writeCounters p).limits = p.limits := changeRecord_limits _ _ p
@[simp] theorem writeCounters_list (p : Part) : (writeCounters p).list = p.list := changeRecord_list _ _ p
@[simp] theorem writeCounters_runner (p : Part) :
    (writeCounters p).runner = p.runner := changeRecord_runner _ _ p
@[simp] theorem writeCounters_planner (p : Part) :
    (writeCounters p).planner = p.planner := changeRecord_planner _ _ p
@[simp] theorem writeCounters_guide (p : Part) : (writeCounters p).guide = p.guide := changeRecord_guide _ _ p
@[simp] theorem writeCounters_inputs (p : Part) :
    (writeCounters p).inputs = p.inputs := changeRecord_inputs _ _ p
@[simp] theorem writeCounters_wind (p : Part) : (writeCounters p).wind = p.wind := changeRecord_wind _ _ p
@[simp] theorem writeCounters_faults (p : Part) :
    (writeCounters p).faults = p.faults := changeRecord_faults _ _ p
@[simp] theorem writeCounters_alerts (p : Part) :
    (writeCounters p).alerts = p.alerts := changeRecord_alerts _ _ p
@[simp] theorem writeCounters_line (p : Part) : (writeCounters p).line = p.line := changeRecord_line _ _ p
@[simp] theorem bankPassage_power (p : Part) :
    (bankPassage p).power = p.power := by unfold bankPassage; split <;> simp
@[simp] theorem bankPassage_clock (p : Part) :
    (bankPassage p).clock = p.clock := by unfold bankPassage; split <;> simp
@[simp] theorem bankPassage_site (p : Part) :
    (bankPassage p).site = p.site := by unfold bankPassage; split <;> simp
@[simp] theorem bankPassage_lastAz (p : Part) :
    (bankPassage p).lastAz = p.lastAz := by unfold bankPassage; split <;> simp
@[simp] theorem bankPassage_model (p : Part) :
    (bankPassage p).model = p.model := by unfold bankPassage; split <;> simp
@[simp] theorem bankPassage_engine (p : Part) :
    (bankPassage p).engine = p.engine := by unfold bankPassage; split <;> simp
@[simp] theorem bankPassage_limits (p : Part) :
    (bankPassage p).limits = p.limits := by unfold bankPassage; split <;> simp
@[simp] theorem bankPassage_list (p : Part) :
    (bankPassage p).list = p.list := by unfold bankPassage; split <;> simp
@[simp] theorem bankPassage_runner (p : Part) :
    (bankPassage p).runner = p.runner := by unfold bankPassage; split <;> simp
@[simp] theorem bankPassage_planner (p : Part) :
    (bankPassage p).planner = p.planner := by unfold bankPassage; split <;> simp
@[simp] theorem bankPassage_guide (p : Part) :
    (bankPassage p).guide = p.guide := by unfold bankPassage; split <;> simp
@[simp] theorem bankPassage_inputs (p : Part) :
    (bankPassage p).inputs = p.inputs := by unfold bankPassage; split <;> simp
@[simp] theorem bankPassage_wind (p : Part) :
    (bankPassage p).wind = p.wind := by unfold bankPassage; split <;> simp
@[simp] theorem bankPassage_faults (p : Part) :
    (bankPassage p).faults = p.faults := by unfold bankPassage; split <;> simp
@[simp] theorem bankPassage_alerts (p : Part) :
    (bankPassage p).alerts = p.alerts := by unfold bankPassage; split <;> simp
@[simp] theorem bankPassage_line (p : Part) :
    (bankPassage p).line = p.line := by unfold bankPassage; split <;> simp
@[simp] theorem createRecord_next (o : Origin) (k : Kind) (p : Part) :
    (createRecord o k p).log.next = p.log.next + 1 := rfl
@[simp] theorem changeRecord_next (n : Option Nat) (f : RunRec → RunRec) (p : Part) :
    (changeRecord n f p).log.next = p.log.next := by cases n <;> rfl
@[simp] theorem closeRecord_next (n : Option Nat) (o : Ending) (p : Part) :
    (closeRecord n o p).log.next = p.log.next := changeRecord_next _ _ p

/-! ### Updates of the list and the planner -/

@[simp] theorem requestPass_power (p : Part) :
    (requestPass p).power = p.power := by unfold requestPass; split <;> rfl
@[simp] theorem requestPass_clock (p : Part) :
    (requestPass p).clock = p.clock := by unfold requestPass; split <;> rfl
@[simp] theorem requestPass_site (p : Part) :
    (requestPass p).site = p.site := by unfold requestPass; split <;> rfl
@[simp] theorem requestPass_lastAz (p : Part) :
    (requestPass p).lastAz = p.lastAz := by unfold requestPass; split <;> rfl
@[simp] theorem requestPass_model (p : Part) :
    (requestPass p).model = p.model := by unfold requestPass; split <;> rfl
@[simp] theorem requestPass_engine (p : Part) :
    (requestPass p).engine = p.engine := by unfold requestPass; split <;> rfl
@[simp] theorem requestPass_limits (p : Part) :
    (requestPass p).limits = p.limits := by unfold requestPass; split <;> rfl
@[simp] theorem requestPass_runner (p : Part) :
    (requestPass p).runner = p.runner := by unfold requestPass; split <;> rfl
@[simp] theorem requestPass_guide (p : Part) :
    (requestPass p).guide = p.guide := by unfold requestPass; split <;> rfl
@[simp] theorem requestPass_inputs (p : Part) :
    (requestPass p).inputs = p.inputs := by unfold requestPass; split <;> rfl
@[simp] theorem requestPass_wind (p : Part) :
    (requestPass p).wind = p.wind := by unfold requestPass; split <;> rfl
@[simp] theorem requestPass_faults (p : Part) :
    (requestPass p).faults = p.faults := by unfold requestPass; split <;> rfl
@[simp] theorem requestPass_alerts (p : Part) :
    (requestPass p).alerts = p.alerts := by unfold requestPass; split <;> rfl
@[simp] theorem requestPass_log (p : Part) : (requestPass p).log = p.log := by unfold requestPass; split <;> rfl
@[simp] theorem requestPass_line (p : Part) :
    (requestPass p).line = p.line := by unfold requestPass; split <;> rfl
@[simp] theorem removeEntry_power (n : Nat) (p : Part) :
    (removeEntry n p).power = p.power := requestPass_power _
@[simp] theorem removeEntry_clock (n : Nat) (p : Part) :
    (removeEntry n p).clock = p.clock := requestPass_clock _
@[simp] theorem removeEntry_site (n : Nat) (p : Part) : (removeEntry n p).site = p.site := requestPass_site _
@[simp] theorem removeEntry_lastAz (n : Nat) (p : Part) :
    (removeEntry n p).lastAz = p.lastAz := requestPass_lastAz _
@[simp] theorem removeEntry_model (n : Nat) (p : Part) :
    (removeEntry n p).model = p.model := requestPass_model _
@[simp] theorem removeEntry_engine (n : Nat) (p : Part) :
    (removeEntry n p).engine = p.engine := requestPass_engine _
@[simp] theorem removeEntry_limits (n : Nat) (p : Part) :
    (removeEntry n p).limits = p.limits := requestPass_limits _
@[simp] theorem removeEntry_runner (n : Nat) (p : Part) :
    (removeEntry n p).runner = p.runner := requestPass_runner _
@[simp] theorem removeEntry_guide (n : Nat) (p : Part) :
    (removeEntry n p).guide = p.guide := requestPass_guide _
@[simp] theorem removeEntry_inputs (n : Nat) (p : Part) :
    (removeEntry n p).inputs = p.inputs := requestPass_inputs _
@[simp] theorem removeEntry_wind (n : Nat) (p : Part) : (removeEntry n p).wind = p.wind := requestPass_wind _
@[simp] theorem removeEntry_faults (n : Nat) (p : Part) :
    (removeEntry n p).faults = p.faults := requestPass_faults _
@[simp] theorem removeEntry_alerts (n : Nat) (p : Part) :
    (removeEntry n p).alerts = p.alerts := requestPass_alerts _
@[simp] theorem removeEntry_log (n : Nat) (p : Part) : (removeEntry n p).log = p.log := requestPass_log _
@[simp] theorem removeEntry_line (n : Nat) (p : Part) : (removeEntry n p).line = p.line := requestPass_line _
@[simp] theorem markCurrent_power (e : Entry) (p : Part) :
    (markCurrent e p).power = p.power := requestPass_power _
@[simp] theorem markCurrent_clock (e : Entry) (p : Part) :
    (markCurrent e p).clock = p.clock := requestPass_clock _
@[simp] theorem markCurrent_site (e : Entry) (p : Part) : (markCurrent e p).site = p.site := requestPass_site _
@[simp] theorem markCurrent_lastAz (e : Entry) (p : Part) :
    (markCurrent e p).lastAz = p.lastAz := requestPass_lastAz _
@[simp] theorem markCurrent_model (e : Entry) (p : Part) :
    (markCurrent e p).model = p.model := requestPass_model _
@[simp] theorem markCurrent_engine (e : Entry) (p : Part) :
    (markCurrent e p).engine = p.engine := requestPass_engine _
@[simp] theorem markCurrent_limits (e : Entry) (p : Part) :
    (markCurrent e p).limits = p.limits := requestPass_limits _
@[simp] theorem markCurrent_runner (e : Entry) (p : Part) :
    (markCurrent e p).runner = p.runner := requestPass_runner _
@[simp] theorem markCurrent_guide (e : Entry) (p : Part) :
    (markCurrent e p).guide = p.guide := requestPass_guide _
@[simp] theorem markCurrent_inputs (e : Entry) (p : Part) :
    (markCurrent e p).inputs = p.inputs := requestPass_inputs _
@[simp] theorem markCurrent_wind (e : Entry) (p : Part) : (markCurrent e p).wind = p.wind := requestPass_wind _
@[simp] theorem markCurrent_faults (e : Entry) (p : Part) :
    (markCurrent e p).faults = p.faults := requestPass_faults _
@[simp] theorem markCurrent_alerts (e : Entry) (p : Part) :
    (markCurrent e p).alerts = p.alerts := requestPass_alerts _
@[simp] theorem markCurrent_log (e : Entry) (p : Part) : (markCurrent e p).log = p.log := requestPass_log _
@[simp] theorem markCurrent_line (e : Entry) (p : Part) : (markCurrent e p).line = p.line := requestPass_line _
@[simp] theorem requestPass_list_current (p : Part) :
    (requestPass p).list.current = p.list.current := by unfold requestPass; split <;> rfl
@[simp] theorem requestPass_list_slots (p : Part) :
    (requestPass p).list.slots = p.list.slots := by unfold requestPass; split <;> rfl
@[simp] theorem requestPass_list_draft (p : Part) :
    (requestPass p).list.draft = p.list.draft := by unfold requestPass; split <;> rfl
@[simp] theorem putDraft_power (d : Option Draft) (p : Part) : (putDraft d p).power = p.power := rfl
@[simp] theorem putDraft_clock (d : Option Draft) (p : Part) : (putDraft d p).clock = p.clock := rfl
@[simp] theorem putDraft_site (d : Option Draft) (p : Part) : (putDraft d p).site = p.site := rfl
@[simp] theorem putDraft_lastAz (d : Option Draft) (p : Part) : (putDraft d p).lastAz = p.lastAz := rfl
@[simp] theorem putDraft_model (d : Option Draft) (p : Part) : (putDraft d p).model = p.model := rfl
@[simp] theorem putDraft_engine (d : Option Draft) (p : Part) : (putDraft d p).engine = p.engine := rfl
@[simp] theorem putDraft_limits (d : Option Draft) (p : Part) : (putDraft d p).limits = p.limits := rfl
@[simp] theorem putDraft_runner (d : Option Draft) (p : Part) : (putDraft d p).runner = p.runner := rfl
@[simp] theorem putDraft_planner (d : Option Draft) (p : Part) : (putDraft d p).planner = p.planner := rfl
@[simp] theorem putDraft_guide (d : Option Draft) (p : Part) : (putDraft d p).guide = p.guide := rfl
@[simp] theorem putDraft_inputs (d : Option Draft) (p : Part) : (putDraft d p).inputs = p.inputs := rfl
@[simp] theorem putDraft_wind (d : Option Draft) (p : Part) : (putDraft d p).wind = p.wind := rfl
@[simp] theorem putDraft_faults (d : Option Draft) (p : Part) : (putDraft d p).faults = p.faults := rfl
@[simp] theorem putDraft_alerts (d : Option Draft) (p : Part) : (putDraft d p).alerts = p.alerts := rfl
@[simp] theorem putDraft_log (d : Option Draft) (p : Part) : (putDraft d p).log = p.log := rfl
@[simp] theorem putDraft_line (d : Option Draft) (p : Part) : (putDraft d p).line = p.line := rfl
@[simp] theorem putDraft_draft (d : Option Draft) (p : Part) : (putDraft d p).list.draft = d := rfl
@[simp] theorem putDraft_entries (d : Option Draft) (p : Part) :
    (putDraft d p).list.entries = p.list.entries := rfl

/-! ### Updates of the model -/

@[simp] theorem activate_power (p : Part) : (activate p).power = p.power := by unfold activate; split <;> simp
@[simp] theorem activate_clock (p : Part) : (activate p).clock = p.clock := by unfold activate; split <;> simp
@[simp] theorem activate_site (p : Part) : (activate p).site = p.site := by unfold activate; split <;> simp
@[simp] theorem activate_lastAz (p : Part) : (activate p).lastAz = p.lastAz := by unfold activate; split <;> simp
@[simp] theorem activate_engine (p : Part) : (activate p).engine = p.engine := by unfold activate; split <;> simp
@[simp] theorem activate_limits (p : Part) : (activate p).limits = p.limits := by unfold activate; split <;> simp
@[simp] theorem activate_runner (p : Part) : (activate p).runner = p.runner := by unfold activate; split <;> simp
@[simp] theorem activate_guide (p : Part) : (activate p).guide = p.guide := by unfold activate; split <;> simp
@[simp] theorem activate_inputs (p : Part) : (activate p).inputs = p.inputs := by unfold activate; split <;> simp
@[simp] theorem activate_wind (p : Part) : (activate p).wind = p.wind := by unfold activate; split <;> simp
@[simp] theorem activate_faults (p : Part) : (activate p).faults = p.faults := by unfold activate; split <;> simp
@[simp] theorem activate_alerts (p : Part) : (activate p).alerts = p.alerts := by unfold activate; split <;> simp
@[simp] theorem activate_log (p : Part) : (activate p).log = p.log := by unfold activate; split <;> simp
@[simp] theorem activate_line (p : Part) : (activate p).line = p.line := by unfold activate; split <;> simp
@[simp] theorem activate_model (p : Part) : (activate p).model = p.model.activate := by unfold activate; split <;> simp
@[simp] theorem boundary_power (p : Part) : (boundary p).power = p.power := by unfold boundary; split <;> simp
@[simp] theorem boundary_clock (p : Part) : (boundary p).clock = p.clock := by unfold boundary; split <;> simp
@[simp] theorem boundary_site (p : Part) : (boundary p).site = p.site := by unfold boundary; split <;> simp
@[simp] theorem boundary_lastAz (p : Part) :
    (boundary p).lastAz = p.lastAz := by unfold boundary; split <;> simp
@[simp] theorem boundary_engine (p : Part) :
    (boundary p).engine = p.engine := by unfold boundary; split <;> simp
@[simp] theorem boundary_limits (p : Part) :
    (boundary p).limits = p.limits := by unfold boundary; split <;> simp
@[simp] theorem boundary_runner (p : Part) :
    (boundary p).runner = p.runner := by unfold boundary; split <;> simp
@[simp] theorem boundary_guide (p : Part) : (boundary p).guide = p.guide := by unfold boundary; split <;> simp
@[simp] theorem boundary_inputs (p : Part) :
    (boundary p).inputs = p.inputs := by unfold boundary; split <;> simp
@[simp] theorem boundary_wind (p : Part) : (boundary p).wind = p.wind := by unfold boundary; split <;> simp
@[simp] theorem boundary_faults (p : Part) :
    (boundary p).faults = p.faults := by unfold boundary; split <;> simp
@[simp] theorem boundary_alerts (p : Part) :
    (boundary p).alerts = p.alerts := by unfold boundary; split <;> simp
@[simp] theorem boundary_log (p : Part) : (boundary p).log = p.log := by unfold boundary; split <;> simp
@[simp] theorem boundary_line (p : Part) : (boundary p).line = p.line := by unfold boundary; split <;> simp

/-! ### Updates of the guide, the runner and the faults -/

@[simp] theorem guideReset_power (p : Part) : (guideReset p).power = p.power := rfl
@[simp] theorem guideReset_clock (p : Part) : (guideReset p).clock = p.clock := rfl
@[simp] theorem guideReset_site (p : Part) : (guideReset p).site = p.site := rfl
@[simp] theorem guideReset_lastAz (p : Part) : (guideReset p).lastAz = p.lastAz := rfl
@[simp] theorem guideReset_model (p : Part) : (guideReset p).model = p.model := rfl
@[simp] theorem guideReset_engine (p : Part) : (guideReset p).engine = p.engine := rfl
@[simp] theorem guideReset_limits (p : Part) : (guideReset p).limits = p.limits := rfl
@[simp] theorem guideReset_list (p : Part) : (guideReset p).list = p.list := rfl
@[simp] theorem guideReset_runner (p : Part) : (guideReset p).runner = p.runner := rfl
@[simp] theorem guideReset_planner (p : Part) : (guideReset p).planner = p.planner := rfl
@[simp] theorem guideReset_inputs (p : Part) : (guideReset p).inputs = p.inputs := rfl
@[simp] theorem guideReset_wind (p : Part) : (guideReset p).wind = p.wind := rfl
@[simp] theorem guideReset_faults (p : Part) : (guideReset p).faults = p.faults := rfl
@[simp] theorem guideReset_alerts (p : Part) : (guideReset p).alerts = p.alerts := rfl
@[simp] theorem guideReset_log (p : Part) : (guideReset p).log = p.log := rfl
@[simp] theorem guideReset_line (p : Part) : (guideReset p).line = p.line := rfl
/-- A guide notice writes nothing but the Guide Unit. -/
theorem noticeGuide_eq (p : Part) : noticeGuide p = { p with guide := (noticeGuide p).guide } := by
  unfold noticeGuide
  dsimp only
  split
  · rfl
  · split <;> rfl

/-- A dwell notice writes nothing but the runner. -/
theorem noticeDwell_eq (p : Part) : noticeDwell p = { p with runner := (noticeDwell p).runner } := by
  unfold noticeDwell
  split <;> rfl

@[simp] theorem noticeGuide_power (p : Part) : (noticeGuide p).power = p.power := by rw [noticeGuide_eq]
@[simp] theorem noticeGuide_clock (p : Part) : (noticeGuide p).clock = p.clock := by rw [noticeGuide_eq]
@[simp] theorem noticeGuide_site (p : Part) : (noticeGuide p).site = p.site := by rw [noticeGuide_eq]
@[simp] theorem noticeGuide_lastAz (p : Part) : (noticeGuide p).lastAz = p.lastAz := by rw [noticeGuide_eq]
@[simp] theorem noticeGuide_model (p : Part) : (noticeGuide p).model = p.model := by rw [noticeGuide_eq]
@[simp] theorem noticeGuide_engine (p : Part) : (noticeGuide p).engine = p.engine := by rw [noticeGuide_eq]
@[simp] theorem noticeGuide_limits (p : Part) : (noticeGuide p).limits = p.limits := by rw [noticeGuide_eq]
@[simp] theorem noticeGuide_list (p : Part) : (noticeGuide p).list = p.list := by rw [noticeGuide_eq]
@[simp] theorem noticeGuide_runner (p : Part) : (noticeGuide p).runner = p.runner := by rw [noticeGuide_eq]
@[simp] theorem noticeGuide_planner (p : Part) : (noticeGuide p).planner = p.planner := by rw [noticeGuide_eq]
@[simp] theorem noticeGuide_inputs (p : Part) : (noticeGuide p).inputs = p.inputs := by rw [noticeGuide_eq]
@[simp] theorem noticeGuide_wind (p : Part) : (noticeGuide p).wind = p.wind := by rw [noticeGuide_eq]
@[simp] theorem noticeGuide_faults (p : Part) : (noticeGuide p).faults = p.faults := by rw [noticeGuide_eq]
@[simp] theorem noticeGuide_alerts (p : Part) : (noticeGuide p).alerts = p.alerts := by rw [noticeGuide_eq]
@[simp] theorem noticeGuide_log (p : Part) : (noticeGuide p).log = p.log := by rw [noticeGuide_eq]
@[simp] theorem noticeGuide_line (p : Part) : (noticeGuide p).line = p.line := by rw [noticeGuide_eq]
@[simp] theorem noticeDwell_power (p : Part) : (noticeDwell p).power = p.power := by rw [noticeDwell_eq]
@[simp] theorem noticeDwell_clock (p : Part) : (noticeDwell p).clock = p.clock := by rw [noticeDwell_eq]
@[simp] theorem noticeDwell_site (p : Part) : (noticeDwell p).site = p.site := by rw [noticeDwell_eq]
@[simp] theorem noticeDwell_lastAz (p : Part) : (noticeDwell p).lastAz = p.lastAz := by rw [noticeDwell_eq]
@[simp] theorem noticeDwell_model (p : Part) : (noticeDwell p).model = p.model := by rw [noticeDwell_eq]
@[simp] theorem noticeDwell_engine (p : Part) : (noticeDwell p).engine = p.engine := by rw [noticeDwell_eq]
@[simp] theorem noticeDwell_limits (p : Part) : (noticeDwell p).limits = p.limits := by rw [noticeDwell_eq]
@[simp] theorem noticeDwell_list (p : Part) : (noticeDwell p).list = p.list := by rw [noticeDwell_eq]
@[simp] theorem noticeDwell_planner (p : Part) : (noticeDwell p).planner = p.planner := by rw [noticeDwell_eq]
@[simp] theorem noticeDwell_guide (p : Part) : (noticeDwell p).guide = p.guide := by rw [noticeDwell_eq]
@[simp] theorem noticeDwell_inputs (p : Part) : (noticeDwell p).inputs = p.inputs := by rw [noticeDwell_eq]
@[simp] theorem noticeDwell_wind (p : Part) : (noticeDwell p).wind = p.wind := by rw [noticeDwell_eq]
@[simp] theorem noticeDwell_faults (p : Part) : (noticeDwell p).faults = p.faults := by rw [noticeDwell_eq]
@[simp] theorem noticeDwell_alerts (p : Part) : (noticeDwell p).alerts = p.alerts := by rw [noticeDwell_eq]
@[simp] theorem noticeDwell_log (p : Part) : (noticeDwell p).log = p.log := by rw [noticeDwell_eq]
@[simp] theorem noticeDwell_line (p : Part) : (noticeDwell p).line = p.line := by rw [noticeDwell_eq]
@[simp] theorem notices_power (p : Part) : (notices p).power = p.power := by simp [notices]
@[simp] theorem notices_clock (p : Part) : (notices p).clock = p.clock := by simp [notices]
@[simp] theorem notices_site (p : Part) : (notices p).site = p.site := by simp [notices]
@[simp] theorem notices_lastAz (p : Part) : (notices p).lastAz = p.lastAz := by simp [notices]
@[simp] theorem notices_model (p : Part) : (notices p).model = p.model := by simp [notices]
@[simp] theorem notices_engine (p : Part) : (notices p).engine = p.engine := by simp [notices]
@[simp] theorem notices_limits (p : Part) : (notices p).limits = p.limits := by simp [notices]
@[simp] theorem notices_list (p : Part) : (notices p).list = p.list := by simp [notices]
@[simp] theorem notices_planner (p : Part) : (notices p).planner = p.planner := by simp [notices]
@[simp] theorem notices_inputs (p : Part) : (notices p).inputs = p.inputs := by simp [notices]
@[simp] theorem notices_wind (p : Part) : (notices p).wind = p.wind := by simp [notices]
@[simp] theorem notices_faults (p : Part) : (notices p).faults = p.faults := by simp [notices]
@[simp] theorem notices_alerts (p : Part) : (notices p).alerts = p.alerts := by simp [notices]
@[simp] theorem notices_log (p : Part) : (notices p).log = p.log := by simp [notices]
@[simp] theorem notices_line (p : Part) : (notices p).line = p.line := by simp [notices]
@[simp] theorem enterHeld_power (r : HeldReason) (p : Part) : (enterHeld r p).power = p.power := rfl
@[simp] theorem enterIdle_power (p : Part) : (enterIdle p).power = p.power := rfl
@[simp] theorem enterHeld_clock (r : HeldReason) (p : Part) : (enterHeld r p).clock = p.clock := rfl
@[simp] theorem enterIdle_clock (p : Part) : (enterIdle p).clock = p.clock := rfl
@[simp] theorem enterHeld_site (r : HeldReason) (p : Part) : (enterHeld r p).site = p.site := rfl
@[simp] theorem enterIdle_site (p : Part) : (enterIdle p).site = p.site := rfl
@[simp] theorem enterHeld_lastAz (r : HeldReason) (p : Part) : (enterHeld r p).lastAz = p.lastAz := rfl
@[simp] theorem enterIdle_lastAz (p : Part) : (enterIdle p).lastAz = p.lastAz := rfl
@[simp] theorem enterHeld_model (r : HeldReason) (p : Part) : (enterHeld r p).model = p.model := rfl
@[simp] theorem enterIdle_model (p : Part) : (enterIdle p).model = p.model := rfl
@[simp] theorem enterHeld_engine (r : HeldReason) (p : Part) : (enterHeld r p).engine = p.engine := rfl
@[simp] theorem enterIdle_engine (p : Part) : (enterIdle p).engine = p.engine := rfl
@[simp] theorem enterHeld_limits (r : HeldReason) (p : Part) : (enterHeld r p).limits = p.limits := rfl
@[simp] theorem enterIdle_limits (p : Part) : (enterIdle p).limits = p.limits := rfl
@[simp] theorem enterHeld_list (r : HeldReason) (p : Part) : (enterHeld r p).list = p.list := rfl
@[simp] theorem enterIdle_list (p : Part) : (enterIdle p).list = p.list := rfl
@[simp] theorem enterHeld_planner (r : HeldReason) (p : Part) : (enterHeld r p).planner = p.planner := rfl
@[simp] theorem enterIdle_planner (p : Part) : (enterIdle p).planner = p.planner := rfl
@[simp] theorem enterHeld_guide (r : HeldReason) (p : Part) : (enterHeld r p).guide = p.guide := rfl
@[simp] theorem enterIdle_guide (p : Part) : (enterIdle p).guide = p.guide := rfl
@[simp] theorem enterHeld_inputs (r : HeldReason) (p : Part) : (enterHeld r p).inputs = p.inputs := rfl
@[simp] theorem enterIdle_inputs (p : Part) : (enterIdle p).inputs = p.inputs := rfl
@[simp] theorem enterHeld_wind (r : HeldReason) (p : Part) : (enterHeld r p).wind = p.wind := rfl
@[simp] theorem enterIdle_wind (p : Part) : (enterIdle p).wind = p.wind := rfl
@[simp] theorem enterHeld_faults (r : HeldReason) (p : Part) : (enterHeld r p).faults = p.faults := rfl
@[simp] theorem enterIdle_faults (p : Part) : (enterIdle p).faults = p.faults := rfl
@[simp] theorem enterHeld_alerts (r : HeldReason) (p : Part) : (enterHeld r p).alerts = p.alerts := rfl
@[simp] theorem enterIdle_alerts (p : Part) : (enterIdle p).alerts = p.alerts := rfl
@[simp] theorem enterHeld_log (r : HeldReason) (p : Part) : (enterHeld r p).log = p.log := rfl
@[simp] theorem enterIdle_log (p : Part) : (enterIdle p).log = p.log := rfl
@[simp] theorem enterHeld_line (r : HeldReason) (p : Part) : (enterHeld r p).line = p.line := rfl
@[simp] theorem enterIdle_line (p : Part) : (enterIdle p).line = p.line := rfl
@[simp] theorem enterEmpty_power (p : Part) : (enterEmpty p).power = p.power := rfl
@[simp] theorem enterEmpty_clock (p : Part) : (enterEmpty p).clock = p.clock := rfl
@[simp] theorem enterEmpty_site (p : Part) : (enterEmpty p).site = p.site := rfl
@[simp] theorem enterEmpty_lastAz (p : Part) : (enterEmpty p).lastAz = p.lastAz := rfl
@[simp] theorem enterEmpty_model (p : Part) : (enterEmpty p).model = p.model := rfl
@[simp] theorem enterEmpty_engine (p : Part) : (enterEmpty p).engine = p.engine := rfl
@[simp] theorem enterEmpty_limits (p : Part) : (enterEmpty p).limits = p.limits := rfl
@[simp] theorem enterEmpty_list (p : Part) : (enterEmpty p).list = p.list := rfl
@[simp] theorem enterEmpty_planner (p : Part) : (enterEmpty p).planner = p.planner := rfl
@[simp] theorem enterEmpty_guide (p : Part) : (enterEmpty p).guide = p.guide := rfl
@[simp] theorem enterEmpty_inputs (p : Part) : (enterEmpty p).inputs = p.inputs := rfl
@[simp] theorem enterEmpty_wind (p : Part) : (enterEmpty p).wind = p.wind := rfl
@[simp] theorem enterEmpty_faults (p : Part) : (enterEmpty p).faults = p.faults := rfl
@[simp] theorem enterEmpty_log (p : Part) : (enterEmpty p).log = p.log := rfl
@[simp] theorem enterEmpty_line (p : Part) : (enterEmpty p).line = p.line := rfl

@[simp] theorem awaitHead_power (p : Part) : (awaitHead p).power = p.power := rfl
@[simp] theorem awaitHead_clock (p : Part) : (awaitHead p).clock = p.clock := rfl
@[simp] theorem awaitHead_site (p : Part) : (awaitHead p).site = p.site := rfl
@[simp] theorem awaitHead_lastAz (p : Part) : (awaitHead p).lastAz = p.lastAz := rfl
@[simp] theorem awaitHead_model (p : Part) : (awaitHead p).model = p.model := rfl
@[simp] theorem awaitHead_engine (p : Part) : (awaitHead p).engine = p.engine := rfl
@[simp] theorem awaitHead_limits (p : Part) : (awaitHead p).limits = p.limits := rfl
@[simp] theorem awaitHead_list (p : Part) : (awaitHead p).list = p.list := rfl
@[simp] theorem awaitHead_planner (p : Part) : (awaitHead p).planner = p.planner := rfl
@[simp] theorem awaitHead_guide (p : Part) : (awaitHead p).guide = p.guide := rfl
@[simp] theorem awaitHead_inputs (p : Part) : (awaitHead p).inputs = p.inputs := rfl
@[simp] theorem awaitHead_wind (p : Part) : (awaitHead p).wind = p.wind := rfl
@[simp] theorem awaitHead_faults (p : Part) : (awaitHead p).faults = p.faults := rfl
@[simp] theorem awaitHead_alerts (p : Part) : (awaitHead p).alerts = p.alerts := rfl
@[simp] theorem awaitHead_log (p : Part) : (awaitHead p).log = p.log := rfl
@[simp] theorem awaitHead_line (p : Part) : (awaitHead p).line = p.line := rfl
@[simp] theorem recordFault_power (r : Report) (p : Part) : (recordFault r p).power = p.power := rfl
@[simp] theorem recordFault_clock (r : Report) (p : Part) : (recordFault r p).clock = p.clock := rfl
@[simp] theorem recordFault_site (r : Report) (p : Part) : (recordFault r p).site = p.site := rfl
@[simp] theorem recordFault_lastAz (r : Report) (p : Part) : (recordFault r p).lastAz = p.lastAz := rfl
@[simp] theorem recordFault_model (r : Report) (p : Part) : (recordFault r p).model = p.model := rfl
@[simp] theorem recordFault_engine (r : Report) (p : Part) : (recordFault r p).engine = p.engine := rfl
@[simp] theorem recordFault_limits (r : Report) (p : Part) : (recordFault r p).limits = p.limits := rfl
@[simp] theorem recordFault_list (r : Report) (p : Part) : (recordFault r p).list = p.list := rfl
@[simp] theorem recordFault_runner (r : Report) (p : Part) : (recordFault r p).runner = p.runner := rfl
@[simp] theorem recordFault_planner (r : Report) (p : Part) : (recordFault r p).planner = p.planner := rfl
@[simp] theorem recordFault_guide (r : Report) (p : Part) : (recordFault r p).guide = p.guide := rfl
@[simp] theorem recordFault_inputs (r : Report) (p : Part) : (recordFault r p).inputs = p.inputs := rfl
@[simp] theorem recordFault_wind (r : Report) (p : Part) : (recordFault r p).wind = p.wind := rfl
@[simp] theorem recordFault_alerts (r : Report) (p : Part) : (recordFault r p).alerts = p.alerts := rfl
@[simp] theorem recordFault_log (r : Report) (p : Part) : (recordFault r p).log = p.log := rfl
@[simp] theorem recordFault_line (r : Report) (p : Part) : (recordFault r p).line = p.line := rfl
@[simp] theorem recordFault_faults (r : Report) (p : Part) :
    (recordFault r p).faults = p.faults.record r p.stamp := rfl

/-! ### Updates of the lines -/

@[simp] theorem emptyBuffer_power (ln : Line) (p : Part) : (emptyBuffer ln p).power = p.power := rfl
@[simp] theorem emptyBuffer_clock (ln : Line) (p : Part) : (emptyBuffer ln p).clock = p.clock := rfl
@[simp] theorem emptyBuffer_site (ln : Line) (p : Part) : (emptyBuffer ln p).site = p.site := rfl
@[simp] theorem emptyBuffer_lastAz (ln : Line) (p : Part) : (emptyBuffer ln p).lastAz = p.lastAz := rfl
@[simp] theorem emptyBuffer_model (ln : Line) (p : Part) : (emptyBuffer ln p).model = p.model := rfl
@[simp] theorem emptyBuffer_engine (ln : Line) (p : Part) : (emptyBuffer ln p).engine = p.engine := rfl
@[simp] theorem emptyBuffer_limits (ln : Line) (p : Part) : (emptyBuffer ln p).limits = p.limits := rfl
@[simp] theorem emptyBuffer_list (ln : Line) (p : Part) : (emptyBuffer ln p).list = p.list := rfl
@[simp] theorem emptyBuffer_runner (ln : Line) (p : Part) : (emptyBuffer ln p).runner = p.runner := rfl
@[simp] theorem emptyBuffer_planner (ln : Line) (p : Part) : (emptyBuffer ln p).planner = p.planner := rfl
@[simp] theorem emptyBuffer_guide (ln : Line) (p : Part) : (emptyBuffer ln p).guide = p.guide := rfl
@[simp] theorem emptyBuffer_inputs (ln : Line) (p : Part) : (emptyBuffer ln p).inputs = p.inputs := rfl
@[simp] theorem emptyBuffer_wind (ln : Line) (p : Part) : (emptyBuffer ln p).wind = p.wind := rfl
@[simp] theorem emptyBuffer_faults (ln : Line) (p : Part) : (emptyBuffer ln p).faults = p.faults := rfl
@[simp] theorem emptyBuffer_alerts (ln : Line) (p : Part) : (emptyBuffer ln p).alerts = p.alerts := rfl
@[simp] theorem emptyBuffer_log (ln : Line) (p : Part) : (emptyBuffer ln p).log = p.log := rfl
@[simp] theorem cutReply_power (ln : Line) (p : Part) : (cutReply ln p).power = p.power := rfl
@[simp] theorem cutReply_clock (ln : Line) (p : Part) : (cutReply ln p).clock = p.clock := rfl
@[simp] theorem cutReply_site (ln : Line) (p : Part) : (cutReply ln p).site = p.site := rfl
@[simp] theorem cutReply_lastAz (ln : Line) (p : Part) : (cutReply ln p).lastAz = p.lastAz := rfl
@[simp] theorem cutReply_model (ln : Line) (p : Part) : (cutReply ln p).model = p.model := rfl
@[simp] theorem cutReply_engine (ln : Line) (p : Part) : (cutReply ln p).engine = p.engine := rfl
@[simp] theorem cutReply_limits (ln : Line) (p : Part) : (cutReply ln p).limits = p.limits := rfl
@[simp] theorem cutReply_list (ln : Line) (p : Part) : (cutReply ln p).list = p.list := rfl
@[simp] theorem cutReply_runner (ln : Line) (p : Part) : (cutReply ln p).runner = p.runner := rfl
@[simp] theorem cutReply_planner (ln : Line) (p : Part) : (cutReply ln p).planner = p.planner := rfl
@[simp] theorem cutReply_guide (ln : Line) (p : Part) : (cutReply ln p).guide = p.guide := rfl
@[simp] theorem cutReply_inputs (ln : Line) (p : Part) : (cutReply ln p).inputs = p.inputs := rfl
@[simp] theorem cutReply_wind (ln : Line) (p : Part) : (cutReply ln p).wind = p.wind := rfl
@[simp] theorem cutReply_faults (ln : Line) (p : Part) : (cutReply ln p).faults = p.faults := rfl
@[simp] theorem cutReply_alerts (ln : Line) (p : Part) : (cutReply ln p).alerts = p.alerts := rfl
@[simp] theorem cutReply_log (ln : Line) (p : Part) : (cutReply ln p).log = p.log := rfl
@[simp] theorem putBuffer_power (ln : Line) (buf : List Octet) (p : Part) :
    (putBuffer ln buf p).power = p.power := rfl
@[simp] theorem putBuffer_clock (ln : Line) (buf : List Octet) (p : Part) :
    (putBuffer ln buf p).clock = p.clock := rfl
@[simp] theorem putBuffer_site (ln : Line) (buf : List Octet) (p : Part) :
    (putBuffer ln buf p).site = p.site := rfl
@[simp] theorem putBuffer_lastAz (ln : Line) (buf : List Octet) (p : Part) :
    (putBuffer ln buf p).lastAz = p.lastAz := rfl
@[simp] theorem putBuffer_model (ln : Line) (buf : List Octet) (p : Part) :
    (putBuffer ln buf p).model = p.model := rfl
@[simp] theorem putBuffer_engine (ln : Line) (buf : List Octet) (p : Part) :
    (putBuffer ln buf p).engine = p.engine := rfl
@[simp] theorem putBuffer_limits (ln : Line) (buf : List Octet) (p : Part) :
    (putBuffer ln buf p).limits = p.limits := rfl
@[simp] theorem putBuffer_list (ln : Line) (buf : List Octet) (p : Part) :
    (putBuffer ln buf p).list = p.list := rfl
@[simp] theorem putBuffer_runner (ln : Line) (buf : List Octet) (p : Part) :
    (putBuffer ln buf p).runner = p.runner := rfl
@[simp] theorem putBuffer_planner (ln : Line) (buf : List Octet) (p : Part) :
    (putBuffer ln buf p).planner = p.planner := rfl
@[simp] theorem putBuffer_guide (ln : Line) (buf : List Octet) (p : Part) :
    (putBuffer ln buf p).guide = p.guide := rfl
@[simp] theorem putBuffer_inputs (ln : Line) (buf : List Octet) (p : Part) :
    (putBuffer ln buf p).inputs = p.inputs := rfl
@[simp] theorem putBuffer_wind (ln : Line) (buf : List Octet) (p : Part) :
    (putBuffer ln buf p).wind = p.wind := rfl
@[simp] theorem putBuffer_faults (ln : Line) (buf : List Octet) (p : Part) :
    (putBuffer ln buf p).faults = p.faults := rfl
@[simp] theorem putBuffer_alerts (ln : Line) (buf : List Octet) (p : Part) :
    (putBuffer ln buf p).alerts = p.alerts := rfl
@[simp] theorem putBuffer_log (ln : Line) (buf : List Octet) (p : Part) :
    (putBuffer ln buf p).log = p.log := rfl
@[simp] theorem putMute_power (ln : Line) (b : Bool) (p : Part) : (putMute ln b p).power = p.power := rfl
@[simp] theorem putMute_clock (ln : Line) (b : Bool) (p : Part) : (putMute ln b p).clock = p.clock := rfl
@[simp] theorem putMute_site (ln : Line) (b : Bool) (p : Part) : (putMute ln b p).site = p.site := rfl
@[simp] theorem putMute_lastAz (ln : Line) (b : Bool) (p : Part) : (putMute ln b p).lastAz = p.lastAz := rfl
@[simp] theorem putMute_model (ln : Line) (b : Bool) (p : Part) : (putMute ln b p).model = p.model := rfl
@[simp] theorem putMute_engine (ln : Line) (b : Bool) (p : Part) : (putMute ln b p).engine = p.engine := rfl
@[simp] theorem putMute_limits (ln : Line) (b : Bool) (p : Part) : (putMute ln b p).limits = p.limits := rfl
@[simp] theorem putMute_list (ln : Line) (b : Bool) (p : Part) : (putMute ln b p).list = p.list := rfl
@[simp] theorem putMute_runner (ln : Line) (b : Bool) (p : Part) : (putMute ln b p).runner = p.runner := rfl
@[simp] theorem putMute_planner (ln : Line) (b : Bool) (p : Part) : (putMute ln b p).planner = p.planner := rfl
@[simp] theorem putMute_guide (ln : Line) (b : Bool) (p : Part) : (putMute ln b p).guide = p.guide := rfl
@[simp] theorem putMute_inputs (ln : Line) (b : Bool) (p : Part) : (putMute ln b p).inputs = p.inputs := rfl
@[simp] theorem putMute_wind (ln : Line) (b : Bool) (p : Part) : (putMute ln b p).wind = p.wind := rfl
@[simp] theorem putMute_faults (ln : Line) (b : Bool) (p : Part) : (putMute ln b p).faults = p.faults := rfl
@[simp] theorem putMute_alerts (ln : Line) (b : Bool) (p : Part) : (putMute ln b p).alerts = p.alerts := rfl
@[simp] theorem putMute_log (ln : Line) (b : Bool) (p : Part) : (putMute ln b p).log = p.log := rfl
@[simp] theorem lockPut_power (ln : Line) (m : MsgName) (b : Bool) (p : Part) :
    (lockPut ln m b p).power = p.power := rfl
@[simp] theorem lockPut_clock (ln : Line) (m : MsgName) (b : Bool) (p : Part) :
    (lockPut ln m b p).clock = p.clock := rfl
@[simp] theorem lockPut_site (ln : Line) (m : MsgName) (b : Bool) (p : Part) :
    (lockPut ln m b p).site = p.site := rfl
@[simp] theorem lockPut_lastAz (ln : Line) (m : MsgName) (b : Bool) (p : Part) :
    (lockPut ln m b p).lastAz = p.lastAz := rfl
@[simp] theorem lockPut_model (ln : Line) (m : MsgName) (b : Bool) (p : Part) :
    (lockPut ln m b p).model = p.model := rfl
@[simp] theorem lockPut_engine (ln : Line) (m : MsgName) (b : Bool) (p : Part) :
    (lockPut ln m b p).engine = p.engine := rfl
@[simp] theorem lockPut_limits (ln : Line) (m : MsgName) (b : Bool) (p : Part) :
    (lockPut ln m b p).limits = p.limits := rfl
@[simp] theorem lockPut_list (ln : Line) (m : MsgName) (b : Bool) (p : Part) :
    (lockPut ln m b p).list = p.list := rfl
@[simp] theorem lockPut_runner (ln : Line) (m : MsgName) (b : Bool) (p : Part) :
    (lockPut ln m b p).runner = p.runner := rfl
@[simp] theorem lockPut_planner (ln : Line) (m : MsgName) (b : Bool) (p : Part) :
    (lockPut ln m b p).planner = p.planner := rfl
@[simp] theorem lockPut_guide (ln : Line) (m : MsgName) (b : Bool) (p : Part) :
    (lockPut ln m b p).guide = p.guide := rfl
@[simp] theorem lockPut_inputs (ln : Line) (m : MsgName) (b : Bool) (p : Part) :
    (lockPut ln m b p).inputs = p.inputs := rfl
@[simp] theorem lockPut_wind (ln : Line) (m : MsgName) (b : Bool) (p : Part) :
    (lockPut ln m b p).wind = p.wind := rfl
@[simp] theorem lockPut_faults (ln : Line) (m : MsgName) (b : Bool) (p : Part) :
    (lockPut ln m b p).faults = p.faults := rfl
@[simp] theorem lockPut_alerts (ln : Line) (m : MsgName) (b : Bool) (p : Part) :
    (lockPut ln m b p).alerts = p.alerts := rfl
@[simp] theorem lockPut_log (ln : Line) (m : MsgName) (b : Bool) (p : Part) :
    (lockPut ln m b p).log = p.log := rfl
@[simp] theorem linkReset_power (p : Part) : (linkReset p).power = p.power := rfl
@[simp] theorem linkReset_clock (p : Part) : (linkReset p).clock = p.clock := rfl
@[simp] theorem linkReset_site (p : Part) : (linkReset p).site = p.site := rfl
@[simp] theorem linkReset_lastAz (p : Part) : (linkReset p).lastAz = p.lastAz := rfl
@[simp] theorem linkReset_model (p : Part) : (linkReset p).model = p.model := rfl
@[simp] theorem linkReset_engine (p : Part) : (linkReset p).engine = p.engine := rfl
@[simp] theorem linkReset_limits (p : Part) : (linkReset p).limits = p.limits := rfl
@[simp] theorem linkReset_list (p : Part) : (linkReset p).list = p.list := rfl
@[simp] theorem linkReset_runner (p : Part) : (linkReset p).runner = p.runner := rfl
@[simp] theorem linkReset_planner (p : Part) : (linkReset p).planner = p.planner := rfl
@[simp] theorem linkReset_guide (p : Part) : (linkReset p).guide = p.guide := rfl
@[simp] theorem linkReset_inputs (p : Part) : (linkReset p).inputs = p.inputs := rfl
@[simp] theorem linkReset_wind (p : Part) : (linkReset p).wind = p.wind := rfl
@[simp] theorem linkReset_faults (p : Part) : (linkReset p).faults = p.faults := rfl
@[simp] theorem linkReset_alerts (p : Part) : (linkReset p).alerts = p.alerts := rfl
@[simp] theorem linkReset_log (p : Part) : (linkReset p).log = p.log := rfl
@[simp] theorem Part.heard_power (ln : Line) (p : Part) : (p.heard ln).power = p.power := rfl
@[simp] theorem Part.flagged_power (ln : Line) (m : MsgName) (r : Result) (p : Part) :
    (p.flagged ln m r).power = p.power := rfl
@[simp] theorem Part.replied_power (ln : Line) (m : MsgName) (r : Result) (fs : List RField) (p : Part) :
    (p.replied ln m r fs).power = p.power := rfl
@[simp] theorem Part.answered_power (ln : Line) (m : MsgName) (r : Result) (fs : List RField) (p : Part) :
    (p.answered ln m r fs).power = p.power := rfl
@[simp] theorem Part.heard_clock (ln : Line) (p : Part) : (p.heard ln).clock = p.clock := rfl
@[simp] theorem Part.flagged_clock (ln : Line) (m : MsgName) (r : Result) (p : Part) :
    (p.flagged ln m r).clock = p.clock := rfl
@[simp] theorem Part.replied_clock (ln : Line) (m : MsgName) (r : Result) (fs : List RField) (p : Part) :
    (p.replied ln m r fs).clock = p.clock := rfl
@[simp] theorem Part.answered_clock (ln : Line) (m : MsgName) (r : Result) (fs : List RField) (p : Part) :
    (p.answered ln m r fs).clock = p.clock := rfl
@[simp] theorem Part.heard_site (ln : Line) (p : Part) : (p.heard ln).site = p.site := rfl
@[simp] theorem Part.flagged_site (ln : Line) (m : MsgName) (r : Result) (p : Part) :
    (p.flagged ln m r).site = p.site := rfl
@[simp] theorem Part.replied_site (ln : Line) (m : MsgName) (r : Result) (fs : List RField) (p : Part) :
    (p.replied ln m r fs).site = p.site := rfl
@[simp] theorem Part.answered_site (ln : Line) (m : MsgName) (r : Result) (fs : List RField) (p : Part) :
    (p.answered ln m r fs).site = p.site := rfl
@[simp] theorem Part.heard_lastAz (ln : Line) (p : Part) : (p.heard ln).lastAz = p.lastAz := rfl
@[simp] theorem Part.flagged_lastAz (ln : Line) (m : MsgName) (r : Result) (p : Part) :
    (p.flagged ln m r).lastAz = p.lastAz := rfl
@[simp] theorem Part.replied_lastAz (ln : Line) (m : MsgName) (r : Result) (fs : List RField) (p : Part) :
    (p.replied ln m r fs).lastAz = p.lastAz := rfl
@[simp] theorem Part.answered_lastAz (ln : Line) (m : MsgName) (r : Result) (fs : List RField) (p : Part) :
    (p.answered ln m r fs).lastAz = p.lastAz := rfl
@[simp] theorem Part.heard_model (ln : Line) (p : Part) : (p.heard ln).model = p.model := rfl
@[simp] theorem Part.flagged_model (ln : Line) (m : MsgName) (r : Result) (p : Part) :
    (p.flagged ln m r).model = p.model := rfl
@[simp] theorem Part.replied_model (ln : Line) (m : MsgName) (r : Result) (fs : List RField) (p : Part) :
    (p.replied ln m r fs).model = p.model := rfl
@[simp] theorem Part.answered_model (ln : Line) (m : MsgName) (r : Result) (fs : List RField) (p : Part) :
    (p.answered ln m r fs).model = p.model := rfl
@[simp] theorem Part.heard_engine (ln : Line) (p : Part) : (p.heard ln).engine = p.engine := rfl
@[simp] theorem Part.flagged_engine (ln : Line) (m : MsgName) (r : Result) (p : Part) :
    (p.flagged ln m r).engine = p.engine := rfl
@[simp] theorem Part.replied_engine (ln : Line) (m : MsgName) (r : Result) (fs : List RField) (p : Part) :
    (p.replied ln m r fs).engine = p.engine := rfl
@[simp] theorem Part.answered_engine (ln : Line) (m : MsgName) (r : Result) (fs : List RField) (p : Part) :
    (p.answered ln m r fs).engine = p.engine := rfl
@[simp] theorem Part.heard_limits (ln : Line) (p : Part) : (p.heard ln).limits = p.limits := rfl
@[simp] theorem Part.flagged_limits (ln : Line) (m : MsgName) (r : Result) (p : Part) :
    (p.flagged ln m r).limits = p.limits := rfl
@[simp] theorem Part.replied_limits (ln : Line) (m : MsgName) (r : Result) (fs : List RField) (p : Part) :
    (p.replied ln m r fs).limits = p.limits := rfl
@[simp] theorem Part.answered_limits (ln : Line) (m : MsgName) (r : Result) (fs : List RField) (p : Part) :
    (p.answered ln m r fs).limits = p.limits := rfl
@[simp] theorem Part.heard_list (ln : Line) (p : Part) : (p.heard ln).list = p.list := rfl
@[simp] theorem Part.flagged_list (ln : Line) (m : MsgName) (r : Result) (p : Part) :
    (p.flagged ln m r).list = p.list := rfl
@[simp] theorem Part.replied_list (ln : Line) (m : MsgName) (r : Result) (fs : List RField) (p : Part) :
    (p.replied ln m r fs).list = p.list := rfl
@[simp] theorem Part.answered_list (ln : Line) (m : MsgName) (r : Result) (fs : List RField) (p : Part) :
    (p.answered ln m r fs).list = p.list := rfl
@[simp] theorem Part.heard_runner (ln : Line) (p : Part) : (p.heard ln).runner = p.runner := rfl
@[simp] theorem Part.flagged_runner (ln : Line) (m : MsgName) (r : Result) (p : Part) :
    (p.flagged ln m r).runner = p.runner := rfl
@[simp] theorem Part.replied_runner (ln : Line) (m : MsgName) (r : Result) (fs : List RField) (p : Part) :
    (p.replied ln m r fs).runner = p.runner := rfl
@[simp] theorem Part.answered_runner (ln : Line) (m : MsgName) (r : Result) (fs : List RField) (p : Part) :
    (p.answered ln m r fs).runner = p.runner := rfl
@[simp] theorem Part.heard_planner (ln : Line) (p : Part) : (p.heard ln).planner = p.planner := rfl
@[simp] theorem Part.flagged_planner (ln : Line) (m : MsgName) (r : Result) (p : Part) :
    (p.flagged ln m r).planner = p.planner := rfl
@[simp] theorem Part.replied_planner (ln : Line) (m : MsgName) (r : Result) (fs : List RField) (p : Part) :
    (p.replied ln m r fs).planner = p.planner := rfl
@[simp] theorem Part.answered_planner (ln : Line) (m : MsgName) (r : Result) (fs : List RField) (p : Part) :
    (p.answered ln m r fs).planner = p.planner := rfl
@[simp] theorem Part.heard_guide (ln : Line) (p : Part) : (p.heard ln).guide = p.guide := rfl
@[simp] theorem Part.flagged_guide (ln : Line) (m : MsgName) (r : Result) (p : Part) :
    (p.flagged ln m r).guide = p.guide := rfl
@[simp] theorem Part.replied_guide (ln : Line) (m : MsgName) (r : Result) (fs : List RField) (p : Part) :
    (p.replied ln m r fs).guide = p.guide := rfl
@[simp] theorem Part.answered_guide (ln : Line) (m : MsgName) (r : Result) (fs : List RField) (p : Part) :
    (p.answered ln m r fs).guide = p.guide := rfl
@[simp] theorem Part.heard_inputs (ln : Line) (p : Part) : (p.heard ln).inputs = p.inputs := rfl
@[simp] theorem Part.flagged_inputs (ln : Line) (m : MsgName) (r : Result) (p : Part) :
    (p.flagged ln m r).inputs = p.inputs := rfl
@[simp] theorem Part.replied_inputs (ln : Line) (m : MsgName) (r : Result) (fs : List RField) (p : Part) :
    (p.replied ln m r fs).inputs = p.inputs := rfl
@[simp] theorem Part.answered_inputs (ln : Line) (m : MsgName) (r : Result) (fs : List RField) (p : Part) :
    (p.answered ln m r fs).inputs = p.inputs := rfl
@[simp] theorem Part.heard_wind (ln : Line) (p : Part) : (p.heard ln).wind = p.wind := rfl
@[simp] theorem Part.flagged_wind (ln : Line) (m : MsgName) (r : Result) (p : Part) :
    (p.flagged ln m r).wind = p.wind := rfl
@[simp] theorem Part.replied_wind (ln : Line) (m : MsgName) (r : Result) (fs : List RField) (p : Part) :
    (p.replied ln m r fs).wind = p.wind := rfl
@[simp] theorem Part.answered_wind (ln : Line) (m : MsgName) (r : Result) (fs : List RField) (p : Part) :
    (p.answered ln m r fs).wind = p.wind := rfl
@[simp] theorem Part.heard_faults (ln : Line) (p : Part) : (p.heard ln).faults = p.faults := rfl
@[simp] theorem Part.flagged_faults (ln : Line) (m : MsgName) (r : Result) (p : Part) :
    (p.flagged ln m r).faults = p.faults := rfl
@[simp] theorem Part.replied_faults (ln : Line) (m : MsgName) (r : Result) (fs : List RField) (p : Part) :
    (p.replied ln m r fs).faults = p.faults := rfl
@[simp] theorem Part.answered_faults (ln : Line) (m : MsgName) (r : Result) (fs : List RField) (p : Part) :
    (p.answered ln m r fs).faults = p.faults := rfl
@[simp] theorem Part.heard_alerts (ln : Line) (p : Part) : (p.heard ln).alerts = p.alerts := rfl
@[simp] theorem Part.flagged_alerts (ln : Line) (m : MsgName) (r : Result) (p : Part) :
    (p.flagged ln m r).alerts = p.alerts := rfl
@[simp] theorem Part.replied_alerts (ln : Line) (m : MsgName) (r : Result) (fs : List RField) (p : Part) :
    (p.replied ln m r fs).alerts = p.alerts := rfl
@[simp] theorem Part.answered_alerts (ln : Line) (m : MsgName) (r : Result) (fs : List RField) (p : Part) :
    (p.answered ln m r fs).alerts = p.alerts := rfl
@[simp] theorem Part.heard_log (ln : Line) (p : Part) : (p.heard ln).log = p.log := rfl
@[simp] theorem Part.flagged_log (ln : Line) (m : MsgName) (r : Result) (p : Part) :
    (p.flagged ln m r).log = p.log := rfl
@[simp] theorem Part.replied_log (ln : Line) (m : MsgName) (r : Result) (fs : List RField) (p : Part) :
    (p.replied ln m r fs).log = p.log := rfl
@[simp] theorem Part.answered_log (ln : Line) (m : MsgName) (r : Result) (fs : List RField) (p : Part) :
    (p.answered ln m r fs).log = p.log := rfl

/-! ### Axes, inputs and lines by name -/

@[simp] theorem Engine.axis_setAxis (e : Engine) (x : Axis) (a : AxisState) : (e.setAxis x a).axis x = a := by
  cases x <;> rfl

theorem Engine.axis_setAxis_ne (e : Engine) {x y : Axis} (a : AxisState) (h : y ≠ x) :
    (e.setAxis x a).axis y = e.axis y := by
  cases x <;> cases y <;> first | rfl | exact absurd rfl h

@[simp] theorem PerInput.get_set {α : Type} (v : PerInput α) (i : InputName) (x : α) : (v.set i x).get i = x := by
  cases i <;> rfl

theorem PerInput.get_set_ne {α : Type} (v : PerInput α) {i j : InputName} (x : α) (h : j ≠ i) :
    (v.set i x).get j = v.get j := by
  cases i <;> cases j <;> first | rfl | exact absurd rfl h

@[simp] theorem LineIf.get_set (l : LineIf) (ln : Line) (x : LineState) : (l.set ln x).get ln = x := by
  cases ln <;> rfl

@[simp] theorem LineIf.get_set_other (l : LineIf) (ln : Line) (x : LineState) :
    (l.set ln x).get (Line.other ln) = l.get (Line.other ln) := by
  cases ln <;> rfl

@[simp] theorem LineIf.get_set_of_other (l : LineIf) (ln : Line) (x : LineState) :
    (l.set (Line.other ln) x).get ln = l.get ln := by
  cases ln <;> rfl

@[simp] theorem LineIf.set_address (l : LineIf) (ln : Line) (x : LineState) : (l.set ln x).address = l.address := by
  cases ln <;> rfl

@[simp] theorem LineIf.set_isLocked (l : LineIf) (ln : Line) (x : LineState) (on : Line) (m : MsgName) :
    (l.set ln x).isLocked on m = l.isLocked on m := by
  cases ln <;> cases on <;> rfl

/-! ### Named updates of the engine -/

@[simp] theorem Engine.mapAxes_motion (e : Engine) (f : AxisState → AxisState) :
    (e.mapAxes f).motion = e.motion := rfl
@[simp] theorem Engine.freshProfiles_motion (e : Engine) : e.freshProfiles.motion = e.motion := rfl
@[simp] theorem Engine.clampBoth_motion (e : Engine) : e.clampBoth.motion = e.motion := rfl
@[simp] theorem Engine.slewBoth_motion (e : Engine) (o q : AxisPair) : (e.slewBoth o q).motion = e.motion := rfl
@[simp] theorem Engine.followBoth_motion (e : Engine) (q : AxisPair) : (e.followBoth q).motion = e.motion := rfl
@[simp] theorem Engine.setAxis_motion (e : Engine) (x : Axis) (a : AxisState) :
    (e.setAxis x a).motion = e.motion := by cases x <;> rfl
@[simp] theorem Engine.mapAxes_offArc (e : Engine) (f : AxisState → AxisState) :
    (e.mapAxes f).offArc = e.offArc := rfl
@[simp] theorem Engine.freshProfiles_offArc (e : Engine) : e.freshProfiles.offArc = e.offArc := rfl
@[simp] theorem Engine.clampBoth_offArc (e : Engine) : e.clampBoth.offArc = e.offArc := rfl
@[simp] theorem Engine.slewBoth_offArc (e : Engine) (o q : AxisPair) : (e.slewBoth o q).offArc = e.offArc := rfl
@[simp] theorem Engine.followBoth_offArc (e : Engine) (q : AxisPair) : (e.followBoth q).offArc = e.offArc := rfl
@[simp] theorem Engine.setAxis_offArc (e : Engine) (x : Axis) (a : AxisState) :
    (e.setAxis x a).offArc = e.offArc := by cases x <;> rfl
@[simp] theorem Engine.mapAxes_offEl (e : Engine) (f : AxisState → AxisState) :
    (e.mapAxes f).offEl = e.offEl := rfl
@[simp] theorem Engine.freshProfiles_offEl (e : Engine) : e.freshProfiles.offEl = e.offEl := rfl
@[simp] theorem Engine.clampBoth_offEl (e : Engine) : e.clampBoth.offEl = e.offEl := rfl
@[simp] theorem Engine.slewBoth_offEl (e : Engine) (o q : AxisPair) : (e.slewBoth o q).offEl = e.offEl := rfl
@[simp] theorem Engine.followBoth_offEl (e : Engine) (q : AxisPair) : (e.followBoth q).offEl = e.offEl := rfl
@[simp] theorem Engine.setAxis_offEl (e : Engine) (x : Axis) (a : AxisState) :
    (e.setAxis x a).offEl = e.offEl := by cases x <;> rfl
@[simp] theorem Engine.mapAxes_cfg (e : Engine) (f : AxisState → AxisState) : (e.mapAxes f).cfg = e.cfg := rfl
@[simp] theorem Engine.freshProfiles_cfg (e : Engine) : e.freshProfiles.cfg = e.cfg := rfl
@[simp] theorem Engine.clampBoth_cfg (e : Engine) : e.clampBoth.cfg = e.cfg := rfl
@[simp] theorem Engine.slewBoth_cfg (e : Engine) (o q : AxisPair) : (e.slewBoth o q).cfg = e.cfg := rfl
@[simp] theorem Engine.followBoth_cfg (e : Engine) (q : AxisPair) : (e.followBoth q).cfg = e.cfg := rfl
@[simp] theorem Engine.setAxis_cfg (e : Engine) (x : Axis) (a : AxisState) :
    (e.setAxis x a).cfg = e.cfg := by cases x <;> rfl
@[simp] theorem Engine.mapAxes_target (e : Engine) (f : AxisState → AxisState) :
    (e.mapAxes f).target = e.target := rfl
@[simp] theorem Engine.freshProfiles_target (e : Engine) : e.freshProfiles.target = e.target := rfl
@[simp] theorem Engine.clampBoth_target (e : Engine) : e.clampBoth.target = e.target := rfl
@[simp] theorem Engine.slewBoth_target (e : Engine) (o q : AxisPair) : (e.slewBoth o q).target = e.target := rfl
@[simp] theorem Engine.followBoth_target (e : Engine) (q : AxisPair) : (e.followBoth q).target = e.target := rfl
@[simp] theorem Engine.setAxis_target (e : Engine) (x : Axis) (a : AxisState) :
    (e.setAxis x a).target = e.target := by cases x <;> rfl
@[simp] theorem Engine.mapAxes_request (e : Engine) (f : AxisState → AxisState) :
    (e.mapAxes f).request = e.request := rfl
@[simp] theorem Engine.freshProfiles_request (e : Engine) : e.freshProfiles.request = e.request := rfl
@[simp] theorem Engine.clampBoth_request (e : Engine) : e.clampBoth.request = e.request := rfl
@[simp] theorem Engine.slewBoth_request (e : Engine) (o q : AxisPair) : (e.slewBoth o q).request = e.request := rfl
@[simp] theorem Engine.followBoth_request (e : Engine) (q : AxisPair) :
    (e.followBoth q).request = e.request := rfl
@[simp] theorem Engine.setAxis_request (e : Engine) (x : Axis) (a : AxisState) :
    (e.setAxis x a).request = e.request := by cases x <;> rfl
@[simp] theorem Engine.mapAxes_passage (e : Engine) (f : AxisState → AxisState) :
    (e.mapAxes f).passage = e.passage := rfl
@[simp] theorem Engine.freshProfiles_passage (e : Engine) : e.freshProfiles.passage = e.passage := rfl
@[simp] theorem Engine.clampBoth_passage (e : Engine) : e.clampBoth.passage = e.passage := rfl
@[simp] theorem Engine.slewBoth_passage (e : Engine) (o q : AxisPair) : (e.slewBoth o q).passage = e.passage := rfl
@[simp] theorem Engine.followBoth_passage (e : Engine) (q : AxisPair) :
    (e.followBoth q).passage = e.passage := rfl
@[simp] theorem Engine.setAxis_passage (e : Engine) (x : Axis) (a : AxisState) :
    (e.setAxis x a).passage = e.passage := by cases x <;> rfl
@[simp] theorem Engine.mapAxes_arrivedAt (e : Engine) (f : AxisState → AxisState) :
    (e.mapAxes f).arrivedAt = e.arrivedAt := rfl
@[simp] theorem Engine.freshProfiles_arrivedAt (e : Engine) : e.freshProfiles.arrivedAt = e.arrivedAt := rfl
@[simp] theorem Engine.clampBoth_arrivedAt (e : Engine) : e.clampBoth.arrivedAt = e.arrivedAt := rfl
@[simp] theorem Engine.slewBoth_arrivedAt (e : Engine) (o q : AxisPair) :
    (e.slewBoth o q).arrivedAt = e.arrivedAt := rfl
@[simp] theorem Engine.followBoth_arrivedAt (e : Engine) (q : AxisPair) :
    (e.followBoth q).arrivedAt = e.arrivedAt := rfl
@[simp] theorem Engine.setAxis_arrivedAt (e : Engine) (x : Axis) (a : AxisState) :
    (e.setAxis x a).arrivedAt = e.arrivedAt := by cases x <;> rfl
@[simp] theorem Engine.mapAxes_unparkAt (e : Engine) (f : AxisState → AxisState) :
    (e.mapAxes f).unparkAt = e.unparkAt := rfl
@[simp] theorem Engine.freshProfiles_unparkAt (e : Engine) : e.freshProfiles.unparkAt = e.unparkAt := rfl
@[simp] theorem Engine.clampBoth_unparkAt (e : Engine) : e.clampBoth.unparkAt = e.unparkAt := rfl
@[simp] theorem Engine.slewBoth_unparkAt (e : Engine) (o q : AxisPair) :
    (e.slewBoth o q).unparkAt = e.unparkAt := rfl
@[simp] theorem Engine.followBoth_unparkAt (e : Engine) (q : AxisPair) :
    (e.followBoth q).unparkAt = e.unparkAt := rfl
@[simp] theorem Engine.setAxis_unparkAt (e : Engine) (x : Axis) (a : AxisState) :
    (e.setAxis x a).unparkAt = e.unparkAt := by cases x <;> rfl
@[simp] theorem Engine.mapAxes_mismatch (e : Engine) (f : AxisState → AxisState) :
    (e.mapAxes f).mismatch = e.mismatch := rfl
@[simp] theorem Engine.freshProfiles_mismatch (e : Engine) : e.freshProfiles.mismatch = e.mismatch := rfl
@[simp] theorem Engine.clampBoth_mismatch (e : Engine) : e.clampBoth.mismatch = e.mismatch := rfl
@[simp] theorem Engine.slewBoth_mismatch (e : Engine) (o q : AxisPair) :
    (e.slewBoth o q).mismatch = e.mismatch := rfl
@[simp] theorem Engine.followBoth_mismatch (e : Engine) (q : AxisPair) :
    (e.followBoth q).mismatch = e.mismatch := rfl
@[simp] theorem Engine.setAxis_mismatch (e : Engine) (x : Axis) (a : AxisState) :
    (e.setAxis x a).mismatch = e.mismatch := by cases x <;> rfl
@[simp] theorem Engine.mapAxes_encodersOn (e : Engine) (f : AxisState → AxisState) :
    (e.mapAxes f).encodersOn = e.encodersOn := rfl
@[simp] theorem Engine.freshProfiles_encodersOn (e : Engine) : e.freshProfiles.encodersOn = e.encodersOn := rfl
@[simp] theorem Engine.clampBoth_encodersOn (e : Engine) : e.clampBoth.encodersOn = e.encodersOn := rfl
@[simp] theorem Engine.slewBoth_encodersOn (e : Engine) (o q : AxisPair) :
    (e.slewBoth o q).encodersOn = e.encodersOn := rfl
@[simp] theorem Engine.followBoth_encodersOn (e : Engine) (q : AxisPair) :
    (e.followBoth q).encodersOn = e.encodersOn := rfl
@[simp] theorem Engine.setAxis_encodersOn (e : Engine) (x : Axis) (a : AxisState) :
    (e.setAxis x a).encodersOn = e.encodersOn := by cases x <;> rfl
@[simp] theorem Engine.mapAxes_backout (e : Engine) (f : AxisState → AxisState) :
    (e.mapAxes f).backout = e.backout := rfl
@[simp] theorem Engine.freshProfiles_backout (e : Engine) : e.freshProfiles.backout = e.backout := rfl
@[simp] theorem Engine.clampBoth_backout (e : Engine) : e.clampBoth.backout = e.backout := rfl
@[simp] theorem Engine.slewBoth_backout (e : Engine) (o q : AxisPair) : (e.slewBoth o q).backout = e.backout := rfl
@[simp] theorem Engine.followBoth_backout (e : Engine) (q : AxisPair) :
    (e.followBoth q).backout = e.backout := rfl
@[simp] theorem Engine.setAxis_backout (e : Engine) (x : Axis) (a : AxisState) :
    (e.setAxis x a).backout = e.backout := by cases x <;> rfl
@[simp] theorem Engine.mapAxes_halting (e : Engine) (f : AxisState → AxisState) :
    (e.mapAxes f).halting = e.halting := rfl
@[simp] theorem Engine.freshProfiles_halting (e : Engine) : e.freshProfiles.halting = e.halting := rfl
@[simp] theorem Engine.clampBoth_halting (e : Engine) : e.clampBoth.halting = e.halting := rfl
@[simp] theorem Engine.slewBoth_halting (e : Engine) (o q : AxisPair) : (e.slewBoth o q).halting = e.halting := rfl
@[simp] theorem Engine.followBoth_halting (e : Engine) (q : AxisPair) :
    (e.followBoth q).halting = e.halting := rfl
@[simp] theorem Engine.setAxis_halting (e : Engine) (x : Axis) (a : AxisState) :
    (e.setAxis x a).halting = e.halting := by cases x <;> rfl
@[simp] theorem Engine.mapAxes_disturbed (e : Engine) (f : AxisState → AxisState) :
    (e.mapAxes f).disturbed = e.disturbed := rfl
@[simp] theorem Engine.freshProfiles_disturbed (e : Engine) : e.freshProfiles.disturbed = e.disturbed := rfl
@[simp] theorem Engine.clampBoth_disturbed (e : Engine) : e.clampBoth.disturbed = e.disturbed := rfl
@[simp] theorem Engine.slewBoth_disturbed (e : Engine) (o q : AxisPair) :
    (e.slewBoth o q).disturbed = e.disturbed := rfl
@[simp] theorem Engine.followBoth_disturbed (e : Engine) (q : AxisPair) :
    (e.followBoth q).disturbed = e.disturbed := rfl
@[simp] theorem Engine.setAxis_disturbed (e : Engine) (x : Axis) (a : AxisState) :
    (e.setAxis x a).disturbed = e.disturbed := by cases x <;> rfl
@[simp] theorem Engine.mapAxes_seen (e : Engine) (f : AxisState → AxisState) :
    (e.mapAxes f).seen = e.seen := rfl
@[simp] theorem Engine.freshProfiles_seen (e : Engine) : e.freshProfiles.seen = e.seen := rfl
@[simp] theorem Engine.clampBoth_seen (e : Engine) : e.clampBoth.seen = e.seen := rfl
@[simp] theorem Engine.slewBoth_seen (e : Engine) (o q : AxisPair) : (e.slewBoth o q).seen = e.seen := rfl
@[simp] theorem Engine.followBoth_seen (e : Engine) (q : AxisPair) : (e.followBoth q).seen = e.seen := rfl
@[simp] theorem Engine.setAxis_seen (e : Engine) (x : Axis) (a : AxisState) :
    (e.setAxis x a).seen = e.seen := by cases x <;> rfl
@[simp] theorem Engine.mapAxes_demandAt (e : Engine) (f : AxisState → AxisState) :
    (e.mapAxes f).demandAt = e.demandAt := rfl
@[simp] theorem Engine.freshProfiles_demandAt (e : Engine) : e.freshProfiles.demandAt = e.demandAt := rfl
@[simp] theorem Engine.clampBoth_demandAt (e : Engine) : e.clampBoth.demandAt = e.demandAt := rfl
@[simp] theorem Engine.slewBoth_demandAt (e : Engine) (o q : AxisPair) :
    (e.slewBoth o q).demandAt = e.demandAt := rfl
@[simp] theorem Engine.followBoth_demandAt (e : Engine) (q : AxisPair) :
    (e.followBoth q).demandAt = e.demandAt := rfl
@[simp] theorem Engine.setAxis_demandAt (e : Engine) (x : Axis) (a : AxisState) :
    (e.setAxis x a).demandAt = e.demandAt := by cases x <;> rfl
@[simp] theorem Engine.dropTarget_motion (e : Engine) : e.dropTarget.motion = e.motion := rfl
@[simp] theorem Engine.dropTarget_az (e : Engine) : e.dropTarget.az = e.az := rfl
@[simp] theorem Engine.dropTarget_el (e : Engine) : e.dropTarget.el = e.el := rfl
@[simp] theorem Engine.dropTarget_offArc (e : Engine) : e.dropTarget.offArc = e.offArc := rfl
@[simp] theorem Engine.dropTarget_offEl (e : Engine) : e.dropTarget.offEl = e.offEl := rfl
@[simp] theorem Engine.dropTarget_cfg (e : Engine) : e.dropTarget.cfg = e.cfg := rfl
@[simp] theorem Engine.dropTarget_target (e : Engine) : e.dropTarget.target = none := rfl
@[simp] theorem Engine.dropTarget_request (e : Engine) : e.dropTarget.request = none := rfl
@[simp] theorem Engine.dropTarget_passage (e : Engine) : e.dropTarget.passage = none := rfl
@[simp] theorem Engine.dropTarget_arrivedAt (e : Engine) : e.dropTarget.arrivedAt = none := rfl
@[simp] theorem Engine.dropTarget_unparkAt (e : Engine) : e.dropTarget.unparkAt = e.unparkAt := rfl
@[simp] theorem Engine.dropTarget_mismatch (e : Engine) : e.dropTarget.mismatch = e.mismatch := rfl
@[simp] theorem Engine.dropTarget_encodersOn (e : Engine) : e.dropTarget.encodersOn = e.encodersOn := rfl
@[simp] theorem Engine.dropTarget_backout (e : Engine) : e.dropTarget.backout = e.backout := rfl
@[simp] theorem Engine.dropTarget_halting (e : Engine) : e.dropTarget.halting = e.halting := rfl
@[simp] theorem Engine.dropTarget_disturbed (e : Engine) : e.dropTarget.disturbed = e.disturbed := rfl
@[simp] theorem Engine.dropTarget_seen (e : Engine) : e.dropTarget.seen = e.seen := rfl
@[simp] theorem Engine.dropTarget_demandAt (e : Engine) : e.dropTarget.demandAt = e.demandAt := rfl
@[simp] theorem Engine.mapAxes_az (e : Engine) (f : AxisState → AxisState) : (e.mapAxes f).az = f e.az := rfl
@[simp] theorem Engine.mapAxes_el (e : Engine) (f : AxisState → AxisState) : (e.mapAxes f).el = f e.el := rfl

end Sys2Proof.Machine
end

