-- ==== Sys2Proof/Laws/Ops.lean ====
section
/-! SUPPORT. One lemma for each shared operation of Ops.lean and Events.lean that says what it can do. -/

namespace Sys2Proof.Machine

/-! ### Notices (R34, R111, R125) -/

/-- A guide notice leaves `told` and `allowed` as the engine's condition and the enable make them (R125). -/
theorem noticeGuide_agrees (p : Part) :
    (noticeGuide p).guide.told = p.guidingCondition ∧
    (noticeGuide p).guide.allowed = (p.guidingCondition && p.guide.enable) ∧
    (noticeGuide p).guide.enable = p.guide.enable := by
  unfold noticeGuide
  dsimp only
  split
  · exact ⟨rfl, rfl, rfl⟩
  · split <;> exact ⟨rfl, rfl, rfl⟩

/-- A guide notice of a part that has had it changes nothing. -/
theorem noticeGuide_fixed {p : Part} (ht : p.guide.told = p.guidingCondition)
    (ha : p.guide.allowed = (p.guidingCondition && p.guide.enable)) : noticeGuide p = p := by
  unfold noticeGuide
  dsimp only
  rw [if_neg (by rw [← ha]; cases p.guide.allowed <;> simp), if_neg (by rw [← ha]; cases p.guide.allowed <;> simp),
    ← ha, ← ht]

/-- A dwell notice leaves counting on exactly when R111's condition holds. -/
theorem noticeDwell_agrees (p : Part) : (noticeDwell p).runner.ctx.countFrom.isSome = p.dwellCounts := by
  unfold noticeDwell
  split
  · next h _ => simp [h]
  · next h _ => simp [h]
  · next h1 h2 => cases hd : p.dwellCounts <;> cases hc : p.runner.ctx.countFrom <;> simp_all

/-- A dwell notice changes nothing of what decides whether dwell counts. -/
theorem noticeDwell_counts (p : Part) : (noticeDwell p).dwellCounts = p.dwellCounts := by
  unfold noticeDwell
  split <;> rfl

/-- A dwell notice of a part that has had it changes nothing. -/
theorem noticeDwell_fixed {p : Part} (h : p.runner.ctx.countFrom.isSome = p.dwellCounts) : noticeDwell p = p := by
  unfold noticeDwell
  split
  · next h1 h2 => simp [h1, h2] at h
  · next h1 h2 => simp [h1, h2] at h
  · rfl

/-- A part that has had its notices is left as it is by them. -/
theorem notices_fixed {p : Part} (h : p.Noticed) : notices p = p := by
  rw [notices, noticeGuide_fixed h.1 h.2.1, noticeDwell_fixed h.2.2]

/-- Every part that has been given its notices agrees with them. -/
theorem notices_noticed (p : Part) : (notices p).Noticed := by
  have hg := noticeGuide_agrees p
  have he : (notices p).guide = (noticeGuide p).guide := by simp [notices]
  refine ⟨?_, ?_, ?_⟩
  · rw [he, hg.1]
    simp [notices, Part.guidingCondition]
  · rw [he, hg.2.1, hg.2.2]
    simp [notices, Part.guidingCondition]
  · rw [notices, noticeDwell_agrees, noticeDwell_counts]

/-- A part with another line block, alert unit, log, list, planner, limits, site, clock, model, power or wind logic agrees
with its notices if it did before: they read none of these. -/
theorem Part.Noticed.of_same {p q : Part} (h : p.Noticed) (he : q.engine = p.engine) (hg : q.guide = p.guide)
    (hr : q.runner = p.runner) (hi : q.inputs = p.inputs) : q.Noticed := by
  simpa [Part.Noticed, Part.guidingCondition, Part.dwellCounts, Part.onEntry, Part.attached, Part.domeOk, he, hg, hr, hi]
    using h

/-! ### What a command comes to -/

/-- A command of a powered part: its effect, then the notices. -/
theorem onPart_powered {s : State} (f : Part → Part) (h : s.part.power.powered = true) :
    onPart f s = .next { s with part := notices (f s.part) } := by
  simp [onPart, whenPowered, h]

/-- A command of an unpowered part changes nothing. -/
theorem onPart_unpowered {s : State} (f : Part → Part) (h : s.part.power.powered = false) : onPart f s = .next s := by
  simp [onPart, whenPowered, h]

/-- A command whose effect leaves a part that has had its notices needs none. -/
theorem onPart_noticed {s : State} (f : Part → Part) (h : s.part.power.powered = true) (hn : (f s.part).Noticed) :
    onPart f s = .next { s with part := f s.part } := by
  rw [onPart_powered f h, notices_fixed hn]

/-! ### The Run Log (R164 to R166) -/

/-- A change that keeps sequence numbers reaches the record it names. -/
theorem RunLog.find_change_same (l : RunLog) (n : Nat) (f : RunRec → RunRec) (hf : ∀ r, (f r).seq = r.seq) :
    (l.change n f).find n = (l.find n).map f := by
  unfold RunLog.find RunLog.change
  dsimp only
  induction l.records with
  | nil => rfl
  | cons r rs ih =>
    by_cases h : r.seq = n
    · simp [h, hf]
    · simp [h, ih]

/-- A change that keeps sequence numbers leaves every other record. -/
theorem RunLog.find_change_other (l : RunLog) {n m : Nat} (f : RunRec → RunRec) (hf : ∀ r, (f r).seq = r.seq)
    (h : m ≠ n) : (l.change n f).find m = l.find m := by
  unfold RunLog.find RunLog.change
  dsimp only
  induction l.records with
  | nil => rfl
  | cons r rs ih =>
    by_cases h1 : r.seq = n
    · have h2 : ¬r.seq = m := fun h3 => h (h3.symm.trans h1)
      have h3 : ¬(f r).seq = m := by rw [hf]; exact h2
      simp [h1, h3, ih, Ne.symm h]
    · by_cases h2 : r.seq = m <;> simp_all

/-- Closing keeps the sequence number. -/
@[simp] theorem RunRec.close_seq (r : RunRec) (o : Ending) (t : Stamp) : (r.close o t).seq = r.seq := by
  unfold RunRec.close
  split <;> rfl

/-- Superseding keeps the sequence number. -/
@[simp] theorem RunRec.supersede_seq (r : RunRec) (k : Nat) : (r.supersede k).seq = r.seq := by
  unfold RunRec.supersede
  split <;> rfl

/-- What is dropped from a full ring is one of its records, and the rest keep their order (R164). -/
theorem dropOldestClosed_sublist (rs : List RunRec) : (dropOldestClosed rs).Sublist rs := by
  induction rs with
  | nil => exact List.Sublist.slnil
  | cons r rs ih =>
    unfold dropOldestClosed
    split
    · exact ih.cons_cons r
    · exact List.sublist_cons_self r rs

/-- A new record is found under its number. -/
theorem RunLog.find_create (l : RunLog) (o : Origin) (k : Kind) (h : l.Ok) :
    (l.create o k).find l.next = some (RunRec.fresh l.next o k) := by
  unfold RunLog.find RunLog.create
  dsimp only
  rw [List.find?_append]
  have hn : ∀ rs : List RunRec, (∀ r ∈ rs, r.seq < l.next) → rs.find? (fun r => r.seq == l.next) = none := by
    intro rs hr
    rw [List.find?_eq_none]
    intro r hm
    simp [Nat.ne_of_lt (hr r hm)]
  rw [hn]
  · simp [RunRec.fresh]
  · intro r hm
    split at hm
    · exact (h.2.2 r hm).2.1
    · exact (h.2.2 r ((dropOldestClosed_sublist _).subset hm)).2.1

/-! ### The Fault Table (R157) -/

/-- A report that matches a valid record is folded into it (R157). -/
theorem FaultTable.record_fold (ft : FaultTable) (r : Report) (t : Stamp)
    (h : ft.recs.any (fun o => o.any (·.matches r.source r.reason)) = true) :
    ft.record r t =
      { ft with recs := ft.recs.map fun o => o.map fun f => if f.matches r.source r.reason then f.fold t else f } := by
  simp [FaultTable.record, h]

/-- A report with no match goes to the lowest free index, at the end of the creation order (R157). -/
theorem FaultTable.record_new (ft : FaultTable) (r : Report) (t : Stamp) (i : Nat)
    (h : ft.recs.any (fun o => o.any (·.matches r.source r.reason)) = false)
    (hi : ft.recs.findIdx? (·.isNone) = some i) :
    ft.record r t =
      { ft with
        recs := ft.recs.set i (some
          { severity := r.reason.severity, source := r.source, reason := r.reason, first := t, last := t,
            count := 1, entry := r.entry, az := r.az, el := r.el }),
        order := ft.order ++ [i] } := by
  simp [FaultTable.record, h, hi]

/-- A report with no match and no free index only sets the overflow flag (R157). -/
theorem FaultTable.record_overflow (ft : FaultTable) (r : Report) (t : Stamp)
    (h : ft.recs.any (fun o => o.any (·.matches r.source r.reason)) = false)
    (hi : ft.recs.findIdx? (·.isNone) = none) : ft.record r t = { ft with overflow := true } := by
  simp [FaultTable.record, h, hi]

/-! ### The Planner's request and the list (R86, R120) -/

/-- With the clock unset a request for a pass changes nothing (R120). -/
theorem requestPass_unset {p : Part} (h : p.clock.isSet = false) : requestPass p = p := by
  simp [requestPass, Clock.reading, h]

/-- A request for a pass keeps every entry but for its plan record's state. -/
theorem requestPass_entries (p : Part) :
    (requestPass p).list.entries = p.list.entries ∨
    (requestPass p).list.entries = p.list.entries.map Entry.stale := by
  unfold requestPass
  split
  · exact .inl rfl
  · exact .inr rfl

/-- A stale entry keeps its id. -/
@[simp] theorem Entry.stale_id (e : Entry) : e.stale.id = e.id := rfl

/-- A request for a pass keeps the ids. -/
@[simp] theorem requestPass_ids (p : Part) : (requestPass p).list.entries.map Entry.id = p.list.entries.map Entry.id := by
  rcases requestPass_entries p with h | h <;> simp [h, Function.comp_def]

/-- A request for a pass keeps the number of entries. -/
@[simp] theorem requestPass_length (p : Part) : (requestPass p).list.entries.length = p.list.entries.length := by
  rcases requestPass_entries p with h | h <;> simp [h]

/-- The ids that are left when an entry leaves the list (R86). -/
theorem removeEntry_ids (n : Nat) (p : Part) :
    (removeEntry n p).list.entries.map Entry.id = (p.list.entries.map Entry.id).filter (fun k => k != n) := by
  simp [removeEntry, List.filter_map, Function.comp_def]

/-! ### Messages (R183) -/

/-- A message a line hears and answers: heard, given to its owner, and what follows the owner's answer. -/
theorem messageStep_taken {p : Part} {ln : Line} {m : MsgName} (fs : List Field) (h : Answers p ln m) :
    messageStep (.known m) (ownFrame ln) fs p =
      afterMessage (.known m) ln .addressed (ownerOf m ln fs (p.heard ln)) := by
  obtain ⟨⟨-, hl, hr, hn⟩, h31, hk, -⟩ := h
  have hrec : p.receives ln = true := by simp [Part.receives, hl, hn]
  have hk' : (p.heard ln).line.isLocked ln m = false := by
    rw [← hk]
    simp [Part.heard, cutReply, emptyBuffer]
  simp only [messageStep, ownFrame, hrec, if_true, takeFrame, emptyBuffer_power, hr, Bool.false_eq_true, if_false]
  have h1 : effectiveCast (emptyBuffer ln p) .addressed = .addressed := by
    have h32 : (emptyBuffer ln p).line.address = p.line.address := by simp [emptyBuffer]
    simp only [effectiveCast, h32, if_neg h31]
  have h2 : judge (.known m) ln .addressed fs (p.heard ln) = ownerOf m ln fs (p.heard ln) := by
    simp [judge, hk']
  show (afterMessage (.known m) ln _ (judge (.known m) ln _ fs (p.heard ln))) = _
  rw [h1, h2]

/-- A message a line hears and answers: heard, judged by its owner, recorded and answered. STAT, LAST, LRST and RSET end in
their own ways. -/
theorem messageStep_answers {p : Part} {ln : Line} {m : MsgName} (fs : List Field) (h : Answers p ln m)
    (hm : m ≠ .stat ∧ m ≠ .last ∧ m ≠ .lrst ∧ m ≠ .rset) :
    messageStep (.known m) (ownFrame ln) fs p =
      let a := ownerOf m ln fs (p.heard ln)
      sendReply (.known m) ln .addressed a.result a.fields (a.part.flagged ln m a.result) := by
  have h3 : Name.silent (.known m) = false := by
    obtain ⟨a, b, -, -⟩ := hm
    cases m <;> first | rfl | exact absurd rfl a | exact absurd rfl b
  have h4 : ∀ r, lrstTaken (.known m) r = false := by
    intro r
    simp [lrstTaken, hm.2.2.1]
  have h5 : ((Name.known m) == .known .rset) = false := by simp [hm.2.2.2]
  rw [messageStep_taken fs h]
  simp only [afterMessage, h5, Bool.false_and, Bool.false_eq_true, if_false, recordMessage, h3, h4, Bool.or_false]
  rfl

/-! ### Ranges -/

/-- A value within a bound on both sides. -/
theorem within_iff (b x : Int) : within b x = true ↔ -b ≤ x ∧ x ≤ b := by simp [within]

/-- A value between two bounds. -/
theorem between_iff (lo hi x : Int) : between lo hi x = true ↔ lo ≤ x ∧ x ≤ hi := by simp [between]

end Sys2Proof.Machine
end

