-- ==== Sys2Proof/Laws/Inner.lean ====
section
/-! SUPPORT. What the blocks' own operations keep. `Steady p q` says what every one of them leaves alone and which
properties of the tables it keeps; `Inner p q` adds the Motion Engine's. Both compose, so an operation built from others
has its lemma from theirs. -/

namespace Sys2Proof.Machine

/-- `q` comes from `p` by operations of the engine, the runner, the guide unit, the fault table and their records: the
configuration, the clock, the inputs, the wind logic and the lines stand, and the tables keep their properties. -/
structure Steady (p q : Part) : Prop where
  power : q.power = p.power
  clock : q.clock = p.clock
  site : q.site = p.site
  limits : q.limits = p.limits
  inputs : q.inputs = p.inputs
  wind : q.wind = p.wind
  line : q.line = p.line
  cfg : q.engine.cfg = p.engine.cfg
  enable : q.guide.enable = p.guide.enable
  rate : q.guide.rate = p.guide.rate
  step : q.guide.step = p.guide.step
  domeWait : q.runner.domeWait = p.runner.domeWait
  terms : p.model.staged.Ok ∧ p.model.active.Ok → q.model.staged.Ok ∧ q.model.active.Ok
  faults : p.faults.Ok → q.faults.Ok
  log : p.log.Ok → q.log.Ok
  log_continues : p.log.Continues q.log
  list : p.list.Ok → q.list.Ok
  guide : p.guide.Ok → q.guide.Ok

/-- A log continues itself. -/
theorem RunLog.Continues.refl (l : RunLog) : l.Continues l :=
  ⟨Nat.le_refl _, fun r h _ => ⟨r, h, rfl, fun _ => ⟨rfl, rfl, rfl⟩⟩⟩

/-- A log that continues one that continues a third continues the third. -/
theorem RunLog.Continues.trans {a b c : RunLog} (h1 : a.Continues b) (h2 : b.Continues c) : a.Continues c := by
  refine ⟨Nat.le_trans h1.1 h2.1, fun r hr hs => ?_⟩
  obtain ⟨m, hm, hms, hmk⟩ := h2.2 r hr (Nat.lt_of_lt_of_le hs h1.1)
  obtain ⟨k, hk, hks, hkk⟩ := h1.2 m hm (hms ▸ hs)
  refine ⟨k, hk, hks.trans hms, fun ho => ?_⟩
  obtain ⟨e1, e2, e3⟩ := hkk ho
  have hmo : m.isOpen = false := by simpa [RunRec.isOpen, e1, e3] using ho
  obtain ⟨f1, f2, f3⟩ := hmk hmo
  exact ⟨f1.trans e1, f2.trans e2, f3.trans e3⟩

theorem Steady.refl (p : Part) : Steady p p :=
  ⟨rfl, rfl, rfl, rfl, rfl, rfl, rfl, rfl, rfl, rfl, rfl, rfl, id, id, id, .refl _, id, id⟩

theorem Steady.trans {p q r : Part} (a : Steady p q) (b : Steady q r) : Steady p r :=
  ⟨b.power.trans a.power, b.clock.trans a.clock, b.site.trans a.site, b.limits.trans a.limits,
   b.inputs.trans a.inputs, b.wind.trans a.wind, b.line.trans a.line, b.cfg.trans a.cfg, b.enable.trans a.enable,
   b.rate.trans a.rate, b.step.trans a.step, b.domeWait.trans a.domeWait, b.terms ∘ a.terms, b.faults ∘ a.faults,
   b.log ∘ a.log, a.log_continues.trans b.log_continues, b.list ∘ a.list, b.guide ∘ a.guide⟩

/-- `Steady`, and the Motion Engine keeps its target in step with its state and stands still while a trip is on. -/
structure Inner (p q : Part) : Prop extends Steady p q where
  engine : p.EngineOk → q.EngineOk

theorem Inner.refl (p : Part) : Inner p p := ⟨.refl p, id⟩

theorem Inner.trans {p q r : Part} (a : Inner p q) (b : Inner q r) : Inner p r :=
  ⟨a.toSteady.trans b.toSteady, b.engine ∘ a.engine⟩

/-! ### One block changed -/

theorem inner_of_runner {p : Part} (r : Runner) (h : r.domeWait = p.runner.domeWait) : Inner p { p with runner := r } :=
  ⟨⟨rfl, rfl, rfl, rfl, rfl, rfl, rfl, rfl, rfl, rfl, rfl, h, id, id, id, .refl _, id, id⟩, id⟩

theorem inner_of_alerts {p : Part} (a : Alerts) : Inner p { p with alerts := a } :=
  ⟨⟨rfl, rfl, rfl, rfl, rfl, rfl, rfl, rfl, rfl, rfl, rfl, rfl, id, id, id, .refl _, id, id⟩, id⟩

theorem inner_of_lastAz {p : Part} (a : Option Mas) : Inner p { p with lastAz := a } :=
  ⟨⟨rfl, rfl, rfl, rfl, rfl, rfl, rfl, rfl, rfl, rfl, rfl, rfl, id, id, id, .refl _, id, id⟩, id⟩

theorem inner_of_planner {p : Part} (a : Planner) : Inner p { p with planner := a } :=
  ⟨⟨rfl, rfl, rfl, rfl, rfl, rfl, rfl, rfl, rfl, rfl, rfl, rfl, id, id, id, .refl _, id, id⟩, id⟩

theorem inner_of_list {p : Part} (l : NightList) (h : p.list.Ok → l.Ok) : Inner p { p with list := l } :=
  ⟨⟨rfl, rfl, rfl, rfl, rfl, rfl, rfl, rfl, rfl, rfl, rfl, rfl, id, id, id, .refl _, h, id⟩, id⟩

theorem inner_of_log {p : Part} (l : RunLog) (h : p.log.Ok → l.Ok) (hc : p.log.Continues l) :
    Inner p { p with log := l } :=
  ⟨⟨rfl, rfl, rfl, rfl, rfl, rfl, rfl, rfl, rfl, rfl, rfl, rfl, id, id, h, hc, id, id⟩, id⟩

theorem inner_of_model {p : Part} (m : Model)
    (h : p.model.staged.Ok ∧ p.model.active.Ok → m.staged.Ok ∧ m.active.Ok) : Inner p { p with model := m } :=
  ⟨⟨rfl, rfl, rfl, rfl, rfl, rfl, rfl, rfl, rfl, rfl, rfl, rfl, h, id, id, .refl _, id, id⟩, id⟩

theorem inner_of_guide {p : Part} (g : Guide) (he : g.enable = p.guide.enable) (hr : g.rate = p.guide.rate)
    (hs : g.step = p.guide.step) (h : p.guide.Ok → g.Ok) : Inner p { p with guide := g } :=
  ⟨⟨rfl, rfl, rfl, rfl, rfl, rfl, rfl, rfl, he, hr, hs, rfl, id, id, id, .refl _, id, h⟩, id⟩

theorem steady_of_engine {p : Part} (e : Engine) (hc : e.cfg = p.engine.cfg) : Steady p { p with engine := e } :=
  ⟨rfl, rfl, rfl, rfl, rfl, rfl, rfl, hc, rfl, rfl, rfl, rfl, id, id, id, .refl _, id, id⟩

theorem inner_of_engine {p : Part} (e : Engine) (hc : e.cfg = p.engine.cfg)
    (h : p.EngineOk → Part.EngineOk { p with engine := e }) : Inner p { p with engine := e } :=
  ⟨steady_of_engine e hc, h⟩

/-- An engine of the same state that still has a target if it had one. -/
theorem inner_of_engine_same {p : Part} (e : Engine) (hc : e.cfg = p.engine.cfg) (hm : e.motion = p.engine.motion)
    (ht : e.target.isSome = p.engine.target.isSome) : Inner p { p with engine := e } :=
  inner_of_engine e hc fun h =>
    ⟨(ht.trans h.1).trans (congrArg Motion.following hm.symm), fun t => (congrArg Motion.stilled hm).trans (h.2 t)⟩

/-- While the engine is in none of the stilled states, no trip is on. -/
theorem Part.EngineOk.tripOff {p : Part} (h : p.EngineOk) (hm : p.engine.motion.stilled = false) : p.tripOn = false := by
  cases ht : p.tripOn with
  | false => rfl
  | true => rw [h.2 ht] at hm; cases hm

/-- An engine that counts as tripped in no way has no trip on. -/
theorem tripOff_of_counts {p : Part} (h : p.countsTripped = false) : p.tripOn = false := by
  simp only [Part.countsTripped, Bool.or_eq_false_iff] at h
  simp [Part.tripOn, h.1.2, h.2]

/-- With no trip on, an engine with a target exactly when its state follows one is in order. -/
theorem engineOk_of_tripOff {p : Part} (ht : p.tripOn = false)
    (h : p.engine.target.isSome = p.engine.motion.following) : p.EngineOk :=
  ⟨h, fun h' => by rw [ht] at h'; cases h'⟩

/-- In a stilled state an engine without a target is in order. -/
theorem engineOk_of_stilled {p : Part} (hm : p.engine.motion.stilled = true) (h : p.engine.target = none) :
    p.EngineOk := by
  refine ⟨?_, fun _ => hm⟩
  cases hs : p.engine.motion <;> simp_all [Motion.stilled, Motion.following]

/-- An engine in a state that follows nothing has no target. -/
theorem Part.EngineOk.no_target {p : Part} (h : p.EngineOk) (hm : p.engine.motion.following = false) :
    p.engine.target = none := by
  have := h.1
  rw [hm] at this
  simpa using this

/-! ### The Run Log -/

/-- A change of a record that keeps its number and its ending. -/
def KeepsRecord (f : RunRec → RunRec) : Prop :=
  ∀ r, (f r).seq = r.seq ∧ (r.Ok → (f r).Ok) ∧
    (r.isOpen = false → (f r).ended = r.ended ∧ (f r).outcome = r.outcome ∧ (f r).supersededBy = r.supersededBy)

/-- A change that writes none of the number and the ending. -/
theorem keepsRecord_of_eq {f : RunRec → RunRec}
    (h : ∀ r, (f r).seq = r.seq ∧ (f r).ended = r.ended ∧ (f r).outcome = r.outcome ∧
      (f r).supersededBy = r.supersededBy) : KeepsRecord f := fun r => by
  obtain ⟨h1, h2, h3, h4⟩ := h r
  exact ⟨h1, fun ho => by simpa [RunRec.Ok, h2, h3, h4] using ho, fun _ => ⟨h2, h3, h4⟩⟩

theorem keepsRecord_close (o : Ending) (t : Stamp) : KeepsRecord fun r => r.close o t := fun r => by
  dsimp only
  unfold RunRec.close
  split
  · next h =>
    refine ⟨rfl, fun _ => ⟨rfl, fun hs => ?_⟩, fun hf => by rw [h] at hf; cases hf⟩
    simp [RunRec.isOpen] at h
    simp [h.2] at hs
  · exact ⟨rfl, id, fun _ => ⟨rfl, rfl, rfl⟩⟩

theorem keepsRecord_supersede (k : Nat) : KeepsRecord fun r => r.supersede k := fun r => by
  dsimp only
  unfold RunRec.supersede
  split
  · next h =>
    refine ⟨rfl, fun ho => ⟨ho.1, fun _ => ?_⟩, fun hf => by rw [h] at hf; cases hf⟩
    simp [RunRec.isOpen] at h
    simp [h.1]
  · exact ⟨rfl, id, fun _ => ⟨rfl, rfl, rfl⟩⟩

/-- Changing a record keeps the log's form (R164, R166). -/
theorem RunLog.change_ok {l : RunLog} (n : Nat) {f : RunRec → RunRec} (hf : KeepsRecord f) (h : l.Ok) :
    (l.change n f).Ok := by
  obtain ⟨h1, h2, h3⟩ := h
  have hs : ∀ r : RunRec, (if r.seq = n then f r else r).seq = r.seq := fun r => by
    split
    · exact (hf r).1
    · rfl
  refine ⟨h1, ?_, fun r hr => ?_⟩
  · rw [RunLog.change, List.pairwise_map]
    simpa [hs] using h2
  · obtain ⟨m, hm, rfl⟩ := List.mem_map.1 hr
    refine ⟨(hs m).symm ▸ (h3 m hm).1, (hs m).symm ▸ (h3 m hm).2.1, ?_⟩
    split
    · exact (hf m).2.1 (h3 m hm).2.2
    · exact (h3 m hm).2.2

/-- A log continues in one whose record was changed without reopening it. -/
theorem RunLog.change_continues (l : RunLog) (n : Nat) {f : RunRec → RunRec} (hf : KeepsRecord f) :
    l.Continues (l.change n f) := by
  refine ⟨Nat.le_refl _, fun r hr _ => ?_⟩
  obtain ⟨m, hm, rfl⟩ := List.mem_map.1 hr
  refine ⟨m, hm, ?_, fun ho => ?_⟩
  · split
    · exact (hf m).1.symm
    · rfl
  · split
    · exact (hf m).2.2 ho
    · exact ⟨rfl, rfl, rfl⟩

/-- The records a creation keeps are records the log had. -/
theorem RunLog.kept_sublist (l : RunLog) :
    (if l.records.length < 64 then l.records else dropOldestClosed l.records).Sublist l.records := by
  split
  · exact List.Sublist.refl _
  · exact dropOldestClosed_sublist _

/-- Creating a record keeps the log's form (R164, R165). -/
theorem RunLog.create_ok {l : RunLog} (o : Origin) (k : Kind) (h : l.Ok) : (l.create o k).Ok := by
  obtain ⟨h1, h2, h3⟩ := h
  have hk := l.kept_sublist
  refine ⟨Nat.le_succ_of_le h1, ?_, fun r hr => ?_⟩
  · refine List.pairwise_append.2 ⟨h2.sublist hk, List.pairwise_singleton _ _, fun a ha b hb => ?_⟩
    rw [List.mem_singleton.1 hb]
    exact (h3 a (hk.subset ha)).2.1
  · rcases List.mem_append.1 hr with hr | hr
    · exact ⟨(h3 r (hk.subset hr)).1, Nat.lt_succ_of_lt (h3 r (hk.subset hr)).2.1, (h3 r (hk.subset hr)).2.2⟩
    · rw [List.mem_singleton.1 hr]
      exact ⟨h1, Nat.lt_succ_self _, rfl, fun hs => by cases hs⟩

/-- A log continues in one with a new record. -/
theorem RunLog.create_continues (l : RunLog) (o : Origin) (k : Kind) : l.Continues (l.create o k) := by
  refine ⟨Nat.le_succ _, fun r hr hs => ?_⟩
  rcases List.mem_append.1 hr with hr | hr
  · exact ⟨r, l.kept_sublist.subset hr, rfl, fun _ => ⟨rfl, rfl, rfl⟩⟩
  · rw [List.mem_singleton.1 hr] at hs
    exact absurd hs (Nat.lt_irrefl _)

theorem inner_changeRecord (n : Option Nat) {f : RunRec → RunRec} (hf : KeepsRecord f) (p : Part) :
    Inner p (changeRecord n f p) := by
  cases n with
  | none => exact .refl p
  | some n => exact inner_of_log _ (RunLog.change_ok n hf) (RunLog.change_continues _ n hf)

theorem inner_closeRecord (n : Option Nat) (o : Ending) (p : Part) : Inner p (closeRecord n o p) :=
  inner_changeRecord n (keepsRecord_close o p.stamp) p

theorem inner_supersedeRecord (n : Option Nat) (k : Nat) (p : Part) : Inner p (supersedeRecord n k p) :=
  inner_changeRecord n (keepsRecord_supersede k) p

theorem inner_createRecord (o : Origin) (k : Kind) (p : Part) : Inner p (createRecord o k p) :=
  inner_of_log _ (RunLog.create_ok o k) (RunLog.create_continues _ o k)

theorem inner_createClosed (o : Origin) (k : Kind) (e : Ending) (p : Part) : Inner p (createClosed o k e p) :=
  (inner_createRecord o k p).trans (inner_closeRecord _ e _)

theorem inner_writeCounters (p : Part) : Inner p (writeCounters p) := by
  refine inner_changeRecord _ ?_ p
  exact keepsRecord_of_eq fun _ => ⟨rfl, rfl, rfl, rfl⟩

theorem inner_bankPassage (p : Part) : Inner p (bankPassage p) := by
  unfold bankPassage
  split
  · refine inner_changeRecord _ ?_ p
    exact keepsRecord_of_eq fun _ => ⟨rfl, rfl, rfl, rfl⟩
  · exact .refl p

/-! ### The list, the planner and the model -/

/-- A list with the same ids, slots and draft is in order if the other is. -/
theorem NightList.Ok.of_ids {l l' : NightList} (h : l.Ok) (hi : l'.entries.map Entry.id = l.entries.map Entry.id)
    (hs : l'.slots = l.slots) (hd : l'.draft = l.draft) : l'.Ok := by
  obtain ⟨h1, h2, h3, h4⟩ := h
  refine ⟨?_, hi ▸ h2, fun e he => ?_, hs.symm ▸ hd.symm ▸ h4⟩
  · have := congrArg List.length hi
    simp only [List.length_map] at this
    omega
  · have hm : e.id ∈ l.entries.map Entry.id := hi ▸ List.mem_map_of_mem he
    obtain ⟨x, hx, hxe⟩ := List.mem_map.1 hm
    exact hxe ▸ h3 x hx

theorem inner_requestPass (p : Part) : Inner p (requestPass p) := by
  have hi := requestPass_ids p
  unfold requestPass at hi ⊢
  split
  · exact .refl p
  · next t ht =>
    simp only [ht] at hi
    refine .trans (q := { p with list := { p.list with entries := p.list.entries.map Entry.stale } }) ?_
      (inner_of_planner _)
    exact inner_of_list _ fun h => h.of_ids hi rfl rfl

/-- A list that lost entries is in order if it was before (R86). -/
theorem NightList.Ok.of_sublist {l l' : NightList} (h : l.Ok) (he : l'.entries.Sublist l.entries)
    (hs : l'.slots = l.slots) (hd : l'.draft = l.draft) : l'.Ok := by
  obtain ⟨h1, h2, h3, h4⟩ := h
  exact ⟨Nat.le_trans he.length_le h1, (he.map _).nodup h2, fun e hm => h3 e (he.subset hm), hs.symm ▸ hd.symm ▸ h4⟩

theorem inner_removeEntry (n : Nat) (p : Part) : Inner p (removeEntry n p) := by
  refine .trans ?_ (inner_requestPass _)
  exact inner_of_list _ fun h => h.of_sublist List.filter_sublist rfl rfl

theorem inner_markCurrent (e : Entry) (p : Part) : Inner p (markCurrent e p) := by
  refine .trans ?_ (inner_requestPass _)
  exact inner_of_list _ fun h => h.of_ids rfl rfl rfl

theorem inner_activate (p : Part) : Inner p (activate p) := by
  have staged : Inner p { p with model := p.model.activate } := inner_of_model _ fun h => ⟨h.1, h.1⟩
  unfold activate
  split
  · exact staged
  · exact staged.trans (inner_requestPass _)

theorem inner_boundary (p : Part) : Inner p (boundary p) := by
  unfold boundary
  split
  · exact inner_activate p
  · exact .refl p

/-! ### The guide and dwell notices -/

theorem inner_guideReset (p : Part) : Inner p (guideReset p) :=
  inner_of_guide _ rfl rfl rfl fun h => ⟨rfl, rfl, h.2.2⟩

theorem inner_noticeGuide (p : Part) : Inner p (noticeGuide p) := by
  unfold noticeGuide
  dsimp only
  split
  · exact inner_of_guide _ rfl rfl rfl id
  · split
    · exact inner_of_guide _ rfl rfl rfl fun h => ⟨h.1, h.2.1, Nat.zero_le _, Nat.zero_le _, Nat.zero_le _⟩
    · exact inner_of_guide _ rfl rfl rfl id

theorem inner_noticeDwell (p : Part) : Inner p (noticeDwell p) := by
  unfold noticeDwell
  split
  · exact inner_of_runner _ rfl
  · exact inner_of_runner _ rfl
  · exact .refl p

theorem inner_notices (p : Part) : Inner p (notices p) := (inner_noticeGuide p).trans (inner_noticeDwell _)

/-! ### The Fault Table (R157) -/

/-- Only a report of TRIP severity brings a TRIP record. -/
theorem FaultTable.hasTrip_record (ft : FaultTable) (r : Report) (t : Stamp)
    (h : (ft.record r t).hasTrip = true) : ft.hasTrip = true ∨ r.reason.severity = .trip := by
  unfold FaultTable.record at h
  split at h
  · left
    simp only [FaultTable.hasTrip, List.any_map, List.any_eq_true, Function.comp_apply] at h ⊢
    obtain ⟨o, ho, hs⟩ := h
    refine ⟨o, ho, ?_⟩
    cases o with
    | none => exact hs
    | some f =>
      simp only [Option.map_some, Option.any_some] at hs ⊢
      split at hs <;> exact hs
  · split at h
    · simp only [FaultTable.hasTrip, List.any_eq_true] at h
      obtain ⟨o, ho, hs⟩ := h
      rcases List.mem_or_eq_of_mem_set ho with ho | rfl
      · left
        simp only [FaultTable.hasTrip, List.any_eq_true]
        exact ⟨o, ho, hs⟩
      · right
        simpa using hs
    · exact .inl h

theorem FaultTable.at_i_eq (ft : FaultTable) (i : Nat) : ft.at_i i = (ft.recs[i]?).join := rfl

/-- Recording a report keeps the table's form (R154, R155, R157). -/
theorem FaultTable.record_ok {ft : FaultTable} (r : Report) (t : Stamp) (h : ft.Ok) : (ft.record r t).Ok := by
  obtain ⟨h1, h2, h3, h4, h5⟩ := h
  unfold FaultTable.record
  split
  · -- folded
    have hat : ∀ i, FaultTable.at_i
        { ft with recs := ft.recs.map fun o => o.map fun f => if f.matches r.source r.reason then f.fold t else f } i =
        (ft.at_i i).map fun f => if f.matches r.source r.reason then f.fold t else f := by
      intro i
      simp only [FaultTable.at_i, List.getElem?_map]
      cases ft.recs[i]? with
      | none => rfl
      | some o => rfl
    have hk : ∀ f : FaultRec, (if f.matches r.source r.reason then f.fold t else f).source = f.source ∧
        (if f.matches r.source r.reason then f.fold t else f).reason = f.reason ∧
        (if f.matches r.source r.reason then f.fold t else f).severity = f.severity := fun f => by
      split <;> exact ⟨rfl, rfl, rfl⟩
    refine ⟨by simpa using h1, h2, fun i => ?_, fun i f hf => ?_, fun i j f g hf hg hs hr => ?_⟩
    · rw [hat, Option.isSome_map]; exact h3 i
    · rw [hat] at hf
      obtain ⟨x, hx, rfl⟩ := Option.map_eq_some_iff.1 hf
      obtain ⟨a, b, c⟩ := h4 i x hx
      rw [(hk x).2.1, (hk x).2.2]
      refine ⟨?_, ?_, c⟩
      · split
        · simp only [FaultRec.fold]; omega
        · exact a
      · split
        · simp only [FaultRec.fold]; omega
        · exact b
    · rw [hat] at hf hg
      obtain ⟨x, hx, rfl⟩ := Option.map_eq_some_iff.1 hf
      obtain ⟨y, hy, rfl⟩ := Option.map_eq_some_iff.1 hg
      rw [(hk x).1, (hk y).1] at hs
      rw [(hk x).2.1, (hk y).2.1] at hr
      exact h5 i j x y hx hy hs hr
  · next hno =>
    split
    · next k hk =>
      -- a new record
      have hkl : k < ft.recs.length ∧ ft.recs[k]? = some none := by
        obtain ⟨hlt, hp, -⟩ := List.findIdx?_eq_some_iff_getElem.1 hk
        refine ⟨hlt, ?_⟩
        rw [List.getElem?_eq_getElem hlt]
        simpa using hp
      have hat : ∀ (v : Option FaultRec) (o : List Nat) i,
          FaultTable.at_i { ft with recs := ft.recs.set k v, order := o } i = if i = k then v else ft.at_i i := by
        intro v o i
        simp only [FaultTable.at_i, List.getElem?_set]
        by_cases hi : k = i
        · subst hi; simp [hkl.1]
        · simp [hi, Ne.symm hi]
      have hfree : ft.at_i k = none := by simp [FaultTable.at_i, hkl.2]
      have hnew : ∀ i f, ft.at_i i = some f → ¬(f.source = r.source ∧ f.reason = r.reason) := by
        intro i f hf hb
        apply hno
        simp only [FaultTable.at_i] at hf
        rw [List.any_eq_true]
        refine ⟨some f, ?_, by simp [FaultRec.matches, hb.1, hb.2]⟩
        cases hg : ft.recs[i]? with
        | none => simp [hg] at hf
        | some o =>
          rw [hg] at hf
          simp only [Option.join_some] at hf
          subst hf
          exact List.mem_of_getElem? hg
      have hko : k ∉ ft.order := fun hm => by
        have := (h3 k).1 hm
        simp [hfree] at this
      refine ⟨by simpa using h1, ?_, fun i => ?_, fun i f hf => ?_, fun i j f g hf hg hs hr => ?_⟩
      · exact List.nodup_append.2 ⟨h2, by simp, fun a ha b hb hab => by
          rw [List.mem_singleton.1 hb] at hab; exact hko (hab ▸ ha)⟩
      · rw [hat]
        by_cases hi : i = k
        · simp [hi]
        · simp [hi, h3 i]
      · rw [hat] at hf
        split at hf
        · cases hf; exact ⟨Nat.le_refl 1, (by omega : 1 ≤ 255), rfl⟩
        · exact h4 i f hf
      · rw [hat] at hf hg
        split at hf <;> split at hg
        · next a b => exact a.trans b.symm
        · cases hf; exact absurd ⟨hs.symm, hr.symm⟩ (hnew j g hg)
        · cases hg; exact absurd ⟨hs, hr⟩ (hnew i f hf)
        · exact h5 i j f g hf hg hs hr
    · exact ⟨h1, h2, h3, h4, h5⟩

theorem steady_recordFault (r : Report) (p : Part) : Steady p (recordFault r p) :=
  ⟨rfl, rfl, rfl, rfl, rfl, rfl, rfl, rfl, rfl, rfl, rfl, rfl, id, FaultTable.record_ok r p.stamp, id, .refl _, id, id⟩

/-- A report that is no trip leaves the engine in order. -/
theorem inner_recordFault {r : Report} (h : r.reason.severity ≠ .trip) (p : Part) : Inner p (recordFault r p) := by
  refine ⟨steady_recordFault r p, fun ho => ⟨ho.1, fun ht => ho.2 ?_⟩⟩
  simp only [Part.tripOn, recordFault_faults, Bool.or_eq_true] at ht ⊢
  rcases ht with ht | ht
  · exact .inl ((FaultTable.hasTrip_record _ _ _ ht).resolve_right h)
  · exact .inr ht

end Sys2Proof.Machine
end

