-- ==== Sys2Proof/Laws/EngineLaws.lean ====
section
/-! SUPPORT. What the Motion Engine's changes of state keep (Engine.lean): one lemma per operation. -/

namespace Sys2Proof.Machine

theorem inner_leavePassage (p : Part) : Inner p (leavePassage p) := by
  refine .trans (inner_bankPassage p) ?_
  exact inner_of_engine_same _ rfl rfl rfl

/-- Leaving a passage keeps the state and the target. -/
@[simp] theorem leavePassage_motion (p : Part) : (leavePassage p).engine.motion = p.engine.motion := by
  simp [leavePassage]

@[simp] theorem leavePassage_target (p : Part) : (leavePassage p).engine.target = p.engine.target := by
  simp [leavePassage]

theorem inner_endGoto (o : Ending) (p : Part) : Inner p (endGoto o p) := by
  unfold endGoto
  split
  · split
    · exact inner_closeRecord _ _ p
    · exact .refl p
  · exact .refl p

/-- Ending a GOTO's record writes only the log. -/
@[simp] theorem endGoto_engine (o : Ending) (p : Part) : (endGoto o p).engine = p.engine := by
  unfold endGoto
  split
  · split
    · exact closeRecord_engine _ _ p
    · rfl
  · rfl

theorem inner_leaveForSlew (n : Nat) (p : Part) : Inner p (leaveForSlew n p) := by
  refine .trans (inner_leavePassage p) ?_
  unfold leaveForSlew
  dsimp only
  split
  · split
    · split
      · exact inner_closeRecord _ _ _
      · exact inner_supersedeRecord _ _ _
    · exact .refl _
  · exact .refl _

@[simp] theorem leaveForSlew_motion (n : Nat) (p : Part) : (leaveForSlew n p).engine.motion = p.engine.motion := by
  unfold leaveForSlew
  dsimp only
  split
  · split
    · split <;> simp
    · simp
  · simp

/-- A trip is on or not by the Fault Table and the inputs alone. -/
theorem tripOn_of_same {p q : Part} (hf : q.faults = p.faults) (hi : q.inputs = p.inputs) : q.tripOn = p.tripOn := by
  simp [Part.tripOn, Part.active, hf, hi]

/-! ### Slew starts (R31, R44) -/

/-- Taking a target writes the target and the run record's start; the state is left (R31 steps 4 and 5). -/
theorem steady_takeTarget (g : Assignment) (p : Part) : Steady p (takeTarget g p) := by
  refine .trans ?_ (Inner.toSteady (inner_changeRecord _ ?_ _))
  · exact steady_of_engine _ rfl
  · exact keepsRecord_of_eq fun _ => ⟨rfl, rfl, rfl, rfl⟩

@[simp] theorem takeTarget_motion (g : Assignment) (p : Part) : (takeTarget g p).engine.motion = p.engine.motion := by
  simp [takeTarget]

@[simp] theorem takeTarget_faults (g : Assignment) (p : Part) : (takeTarget g p).faults = p.faults := by
  simp [takeTarget]

/-- The target that is taken carries what was handed over, and has neither arrived nor reached TRACKING. -/
theorem takeTarget_target (g : Assignment) (p : Part) :
    ∃ t, (takeTarget g p).engine.target = some t ∧ t.given = g ∧ t.arrived = false ∧ t.reached = false := by
  simp [takeTarget]

/-- The target that is taken keeps whether the engine's own choice found every run 0 (R60). -/
theorem takeTarget_noRun (g : Assignment) (p : Part) :
    (takeTarget g p).engine.target.any Target.noRun = (engineChoice p g == .none) := by
  simp [takeTarget]

theorem steady_slewStart (g : Assignment) (p : Part) : Steady p (slewStart g p) := by
  refine .trans (inner_boundary p).toSteady (.trans ?_ (steady_takeTarget g _))
  refine .trans ?_ (inner_guideReset _).toSteady
  exact steady_of_engine _ rfl

@[simp] theorem slewStart_faults (g : Assignment) (p : Part) : (slewStart g p).faults = p.faults := by
  simp [slewStart]

/-- A slew start enters SLEWING with the target it was handed (R31). -/
theorem slewStart_slews (g : Assignment) (p : Part) :
    (slewStart g p).engine.motion = .slewing ∧
    ∃ t, (slewStart g p).engine.target = some t ∧ t.given = g ∧ t.arrived = false ∧ t.reached = false :=
  ⟨by simp [slewStart], takeTarget_target g _⟩

/-- A slew start made while no trip is on leaves the engine in order. -/
theorem slewStart_ok (g : Assignment) {p : Part} (h : p.tripOn = false) : (slewStart g p).EngineOk := by
  obtain ⟨hm, t, ht, -⟩ := slewStart_slews g p
  refine engineOk_of_tripOff ?_ (by rw [hm, ht]; rfl)
  rw [tripOn_of_same (slewStart_faults g p) (steady_slewStart g p).inputs, h]

theorem steady_redirect (g : Assignment) (p : Part) : Steady p (redirect g p) := by
  refine .trans ?_ (steady_takeTarget g _)
  exact steady_of_engine _ rfl

@[simp] theorem redirect_faults (g : Assignment) (p : Part) : (redirect g p).faults = p.faults := by
  simp [redirect]

/-- A redirect keeps the state and takes the new target (R44). -/
theorem redirect_redirects (g : Assignment) (p : Part) :
    (redirect g p).engine.motion = p.engine.motion ∧
    ∃ t, (redirect g p).engine.target = some t ∧ t.given = g ∧ t.arrived = false ∧ t.reached = false :=
  ⟨by simp [redirect], takeTarget_target g _⟩

/-- A redirect made in SLEWING while no trip is on leaves the engine in order. -/
theorem redirect_ok (g : Assignment) {p : Part} (hm : p.engine.motion = .slewing) (h : p.tripOn = false) :
    (redirect g p).EngineOk := by
  obtain ⟨hr, t, ht, -⟩ := redirect_redirects g p
  refine engineOk_of_tripOff ?_ (by rw [hr, ht, hm]; rfl)
  rw [tripOn_of_same (redirect_faults g p) (steady_redirect g p).inputs, h]

/-! ### Leaving a target for a state that has none -/

/-- An engine without a target in a state that follows nothing is in order when no trip is on. -/
theorem engineOk_of_dropped {p : Part} (ht : p.engine.target = none) (hm : p.engine.motion.following = false)
    (h : p.tripOn = false) : p.EngineOk :=
  engineOk_of_tripOff h (by rw [ht, hm]; rfl)

theorem steady_enterStowing (p : Part) : Steady p (enterStowing p) := by
  refine .trans (inner_leavePassage p).toSteady (.trans ?_ (inner_boundary _).toSteady)
  exact steady_of_engine _ rfl

@[simp] theorem enterStowing_motion (p : Part) : (enterStowing p).engine.motion = .stowing := by simp [enterStowing]

@[simp] theorem leavePassage_faults (p : Part) : (leavePassage p).faults = p.faults := by simp [leavePassage]

@[simp] theorem enterStowing_faults (p : Part) : (enterStowing p).faults = p.faults := by simp [enterStowing]

theorem enterStowing_ok {p : Part} (h : p.tripOn = false) : (enterStowing p).EngineOk := by
  refine engineOk_of_dropped (by simp [enterStowing]) (by simp [Motion.following]) ?_
  rw [tripOn_of_same (enterStowing_faults p) (steady_enterStowing p).inputs, h]

/-- The part as it arrives in READY, before what follows there (R35). -/
def readyPart (p : Part) : Part :=
  boundary { p with engine := { p.engine.freshProfiles.dropTarget with
    motion := .ready, halting := false, unparkAt := none } }

theorem steady_readyPart (p : Part) : Steady p (readyPart p) := by
  refine .trans ?_ (inner_boundary _).toSteady
  exact steady_of_engine _ rfl

@[simp] theorem readyPart_faults (p : Part) : (readyPart p).faults = p.faults := by simp [readyPart]

theorem readyPart_tripOff {p : Part} (h : p.tripOn = false) : (readyPart p).tripOn = false := by
  rw [tripOn_of_same (readyPart_faults p) (steady_readyPart p).inputs, h]

/-- Arrival in READY ends in STOWING under a wind hold, in the slew start that waited for it, or in READY (R35, R109). -/
theorem readyArrival_cases (p : Part) :
    readyArrival p = readyPart p ∨ readyArrival p = enterStowing (readyPart p) ∨
    ∃ g, p.engine.request = some g ∧ readyArrival p = slewStart g (readyPart p) := by
  unfold readyArrival
  dsimp only
  split
  · exact .inr (.inl rfl)
  · split
    · next g hg => exact .inr (.inr ⟨g, hg, rfl⟩)
    · exact .inl rfl

theorem steady_readyArrival (p : Part) : Steady p (readyArrival p) := by
  have hb := steady_readyPart p
  rcases readyArrival_cases p with h | h | ⟨g, -, h⟩ <;> rw [h]
  · exact hb
  · exact hb.trans (steady_enterStowing _)
  · exact hb.trans (steady_slewStart g _)

@[simp] theorem readyArrival_faults (p : Part) : (readyArrival p).faults = p.faults := by
  rcases readyArrival_cases p with h | h | ⟨g, -, h⟩ <;> simp [h]

theorem readyArrival_ok {p : Part} (h : p.tripOn = false) : (readyArrival p).EngineOk := by
  have hb := readyPart_tripOff h
  rcases readyArrival_cases p with e | e | ⟨g, -, e⟩ <;> rw [e]
  · exact engineOk_of_dropped (by simp [readyPart]) (by simp [readyPart, Motion.following]) hb
  · exact enterStowing_ok hb
  · exact slewStart_ok g hb

theorem inner_restCheck (p : Part) : Inner p (restCheck p) := by
  unfold restCheck
  split
  · next h =>
    simp only [Bool.and_eq_true, beq_iff_eq] at h
    exact ⟨steady_readyArrival p, fun ho => readyArrival_ok (ho.tripOff (by rw [h.1]; rfl))⟩
  · exact .refl p

@[simp] theorem restCheck_faults (p : Part) : (restCheck p).faults = p.faults := by
  unfold restCheck
  split <;> simp

theorem steady_enterStopping (p : Part) : Steady p (enterStopping p) := by
  refine .trans (inner_leavePassage p).toSteady (.trans ?_ (inner_restCheck _).toSteady)
  refine .trans ?_ (inner_boundary _).toSteady
  exact steady_of_engine _ rfl

@[simp] theorem enterStopping_faults (p : Part) : (enterStopping p).faults = p.faults := by simp [enterStopping]

theorem enterStopping_ok {p : Part} (h : p.tripOn = false) : (enterStopping p).EngineOk := by
  refine (inner_restCheck _).engine (engineOk_of_dropped (by simp) (by simp [Motion.following]) ?_)
  rw [tripOn_of_same (p := p) (q := boundary _) (by simp) (by simp [leavePassage]), h]

theorem steady_enterParking (p : Part) : Steady p (enterParking p) := by
  refine .trans (inner_leavePassage p).toSteady (.trans ?_ (inner_boundary _).toSteady)
  exact steady_of_engine _ rfl

@[simp] theorem enterParking_faults (p : Part) : (enterParking p).faults = p.faults := by simp [enterParking]

@[simp] theorem enterParking_motion (p : Part) : (enterParking p).engine.motion = .parking := by simp [enterParking]

theorem enterParking_ok {p : Part} (h : p.tripOn = false) : (enterParking p).EngineOk := by
  refine engineOk_of_dropped (by simp [enterParking]) (by simp [Motion.following]) ?_
  rw [tripOn_of_same (enterParking_faults p) (steady_enterParking p).inputs, h]

theorem steady_enterUnparking (p : Part) : Steady p (enterUnparking p) := steady_of_engine _ rfl

@[simp] theorem enterUnparking_faults (p : Part) : (enterUnparking p).faults = p.faults := rfl

/-- An unpark begins from a state without a target while no trip is on (R40). -/
theorem enterUnparking_ok {p : Part} (ht : p.engine.target = none) (h : p.tripOn = false) :
    (enterUnparking p).EngineOk :=
  engineOk_of_dropped ht rfl h

/-! ### Trips (R49) -/

theorem steady_engineTrip (p : Part) : Steady p (engineTrip p) := by
  unfold engineTrip
  split
  · exact .refl p
  · exact .refl p
  · exact .refl p
  · refine .trans ((inner_leavePassage p).trans (inner_endGoto .tripped _)).toSteady ?_
    refine .trans ?_ (inner_boundary _).toSteady
    refine steady_of_engine _ ?_
    split <;> simp

@[simp] theorem engineTrip_faults (p : Part) : (engineTrip p).faults = p.faults := by
  unfold engineTrip
  split <;> simp [endGoto]
  split
  · split <;> simp
  · simp

/-- A trip leaves the engine in TRIPPED, or in PARKED or DORMANT where it was (R49). -/
theorem engineTrip_motion (p : Part) :
    (engineTrip p).engine.motion = .tripped ∨
    (engineTrip p = p ∧ (p.engine.motion = .parked ∨ p.engine.motion = .dormant)) := by
  unfold engineTrip
  split
  · next h => exact .inl h
  · next h => exact .inr ⟨rfl, .inl h⟩
  · next h => exact .inr ⟨rfl, .inr h⟩
  · left; simp

/-- A trip leaves the engine in order, if its target was in step with its state. -/
theorem engineTrip_ok {p : Part} (h : p.engine.target.isSome = p.engine.motion.following) : (engineTrip p).EngineOk := by
  unfold engineTrip
  split
  · next hm => exact ⟨h, fun _ => by rw [hm]; rfl⟩
  · next hm => exact ⟨h, fun _ => by rw [hm]; rfl⟩
  · next hm => exact ⟨h, fun _ => by rw [hm]; rfl⟩
  · refine engineOk_of_stilled (by simp [Motion.stilled]) ?_
    simp only [boundary_engine]
    split <;> simp

theorem inner_stopMotion (p : Part) : Inner p (stopMotion p) := by
  unfold stopMotion
  split
  case _ h | _ h | _ h | _ h | _ h =>
    exact ⟨steady_enterStopping p, fun ho => enterStopping_ok (ho.tripOff (by rw [h]; rfl))⟩
  · exact .refl p

@[simp] theorem stopMotion_faults (p : Part) : (stopMotion p).faults = p.faults := by
  unfold stopMotion
  split <;> simp

theorem inner_engineHold (p : Part) : Inner p (engineHold p) := by
  unfold engineHold
  split
  case _ h | _ h | _ h | _ h | _ h =>
    have ha := (inner_leavePassage p).trans (inner_endGoto .stowed _)
    refine ⟨ha.toSteady.trans (steady_enterStowing _), fun ho => enterStowing_ok ?_⟩
    exact (ha.engine ho).tripOff (by simp [h, Motion.stilled])
  · exact .refl p

theorem inner_engineRelease (p : Part) : Inner p (engineRelease p) := by
  unfold engineRelease
  split
  · next h => exact ⟨steady_readyArrival p, fun ho => readyArrival_ok (ho.tripOff (by rw [h]; rfl))⟩
  · next h =>
    refine ⟨.trans ?_ (steady_enterStopping _), fun ho => enterStopping_ok ?_⟩
    · exact steady_of_engine _ rfl
    · exact ho.tripOff (by rw [h]; rfl)
  · exact .refl p

end Sys2Proof.Machine
end

