-- ==== Sys2Proof/Laws/RunnerLaws.lean ====
section
/-! SUPPORT. What the List Runner's operations keep (Runner.lean): one lemma per operation. -/

namespace Sys2Proof.Machine

/-! ### States of the runner -/

theorem inner_enterHeld (r : HeldReason) (p : Part) : Inner p (enterHeld r p) := inner_of_runner _ rfl

theorem inner_enterIdle (p : Part) : Inner p (enterIdle p) := inner_of_runner _ rfl

theorem inner_enterEmpty (p : Part) : Inner p (enterEmpty p) := by
  refine .trans (q := { p with runner := { p.runner with state := .empty, ctx := RunCtx.blank } }) ?_
    (inner_of_alerts _)
  exact inner_of_runner _ rfl

/-- Going on is steady when what it goes on with is (R112). -/
theorem inner_goOnWith {next : Part → Part} (hn : ∀ q, Inner q (next q)) (p : Part) : Inner p (goOnWith next p) := by
  unfold goOnWith
  split
  · exact inner_enterHeld .host p
  · exact hn p

theorem inner_awaitHead (p : Part) : Inner p (awaitHead p) := inner_of_runner _ rfl

/-- With no hold-after-current, the runner waits in EMPTY for the next step to take up the head (log 55). -/
theorem goOnLater_of_free {p : Part} (hh : p.runner.holdAfter = false) : goOnLater p = awaitHead p := by
  simp [goOnLater, goOnWith, hh]

theorem inner_goOnLater (p : Part) : Inner p (goOnLater p) := inner_goOnWith inner_awaitHead p

/-! ### Closing a worked entry (R112) -/

theorem inner_bankWorked (p : Part) : Inner p (bankWorked p) := by
  unfold bankWorked
  split
  · exact inner_bankPassage p
  · exact .refl p

theorem inner_writeDwell (p : Part) : Inner p (writeDwell p) := by
  refine inner_changeRecord _ ?_ p
  refine keepsRecord_of_eq fun r => ?_
  split <;> exact ⟨rfl, rfl, rfl, rfl⟩

theorem inner_dropEntry (p : Part) : Inner p (dropEntry p) := by
  unfold dropEntry
  split
  · exact inner_removeEntry _ p
  · exact .refl p

theorem inner_detach (p : Part) : Inner p (detach p) := by
  refine .trans (q := { p with engine := { p.engine with
      target := if p.onEntry then p.engine.target.map fun t => { t with given := { t.given with record := none } }
        else p.engine.target,
      request := none } }) ?_ ?_
  · refine inner_of_engine_same _ rfl rfl ?_
    dsimp only
    split <;> simp
  · exact inner_of_runner _ rfl

theorem inner_closeWork {finish : Option Nat → Part → Part} (hf : ∀ n q, Inner q (finish n q)) (p : Part) :
    Inner p (closeWork finish p) :=
  (inner_bankWorked p).trans ((inner_writeDwell _).trans ((hf _ _).trans ((inner_dropEntry _).trans (inner_detach _))))

theorem inner_closeAs (o : Ending) (p : Part) : Inner p (closeAs o p) :=
  inner_closeWork (fun n q => inner_closeRecord n o q) p

@[simp] theorem bankWorked_engine (p : Part) : (bankWorked p).engine = p.engine := by
  unfold bankWorked
  split <;> simp

@[simp] theorem bankWorked_faults (p : Part) : (bankWorked p).faults = p.faults := by
  unfold bankWorked
  split <;> simp

@[simp] theorem writeDwell_engine (p : Part) : (writeDwell p).engine = p.engine := by simp [writeDwell]

@[simp] theorem writeDwell_faults (p : Part) : (writeDwell p).faults = p.faults := by simp [writeDwell]

@[simp] theorem dropEntry_engine (p : Part) : (dropEntry p).engine = p.engine := by
  unfold dropEntry
  split <;> simp

@[simp] theorem dropEntry_faults (p : Part) : (dropEntry p).faults = p.faults := by
  unfold dropEntry
  split <;> simp

@[simp] theorem detach_motion (p : Part) : (detach p).engine.motion = p.engine.motion := rfl

@[simp] theorem detach_faults (p : Part) : (detach p).faults = p.faults := rfl

/-- Closing an entry leaves the motion state and the Fault Table: the engine coasts (R112). -/
@[simp] theorem closeAs_motion (o : Ending) (p : Part) : (closeAs o p).engine.motion = p.engine.motion := by
  simp [closeAs, closeWork]

@[simp] theorem closeAs_faults (o : Ending) (p : Part) : (closeAs o p).faults = p.faults := by
  simp [closeAs, closeWork]

/-! ### Beginning work (R109) -/

theorem inner_startRecord (n : Nat) (p : Part) : Inner p (startRecord n p) := by
  refine inner_changeRecord _ ?_ p
  exact keepsRecord_of_eq fun _ => ⟨rfl, rfl, rfl, rfl⟩

theorem inner_refusedRecord (e : Entry) (o : Ending) (p : Part) : Inner p (refusedRecord e o p) := by
  unfold refusedRecord
  dsimp only
  split
  · exact (inner_createRecord _ _ p).trans ((inner_startRecord _ _).trans (inner_closeRecord _ o _))
  · exact inner_createClosed _ _ o p

theorem inner_refuseWork (e : Entry) (r : Ending × HeldReason) (p : Part) : Inner p (refuseWork e r p) := by
  unfold refuseWork
  dsimp only
  have h := (inner_refusedRecord e r.1 p).trans
    ((inner_removeEntry e.id _).trans (inner_enterHeld r.2 _))
  split
  · exact h.trans (inner_of_runner _ rfl)
  · exact h

/-- Outside a restart nothing is left open to be ended (R164). -/
theorem endLeftOpen_id {p : Part} (h : p.power.restarting = false) : endLeftOpen p = p := by
  unfold endLeftOpen
  split <;> simp [h]

/-- Ending a record left open closes that record or does nothing. -/
theorem endLeftOpen_cases (p : Part) :
    endLeftOpen p = p ∨ ∃ n, endLeftOpen p = closeRecord n .restarted p := by
  unfold endLeftOpen
  split
  · split
    · exact .inr ⟨_, rfl⟩
    · exact .inl rfl
  · exact .inl rfl

theorem inner_endLeftOpen (p : Part) : Inner p (endLeftOpen p) := by
  rcases endLeftOpen_cases p with h | ⟨n, h⟩ <;> rw [h]
  · exact .refl p
  · exact inner_closeRecord n _ p

@[simp] theorem endLeftOpen_engine (p : Part) : (endLeftOpen p).engine = p.engine := by
  rcases endLeftOpen_cases p with h | ⟨n, h⟩ <;> simp [h]

@[simp] theorem endLeftOpen_faults (p : Part) : (endLeftOpen p).faults = p.faults := by
  rcases endLeftOpen_cases p with h | ⟨n, h⟩ <;> simp [h]

theorem inner_openWork (e : Entry) (x : Option Ms) (p : Part) : Inner p (openWork e x p) :=
  (inner_endLeftOpen p).trans ((inner_createRecord _ _ _).trans (inner_of_runner _ rfl))

@[simp] theorem openWork_engine (e : Entry) (x : Option Ms) (p : Part) : (openWork e x p).engine = p.engine := by
  simp [openWork]

@[simp] theorem openWork_faults (e : Entry) (x : Option Ms) (p : Part) : (openWork e x p).faults = p.faults := by
  simp [openWork]

theorem steady_engineTakes (g : Assignment) (p : Part) : Steady p (engineTakes g p) := by
  unfold engineTakes
  split
  · exact steady_redirect g p
  · refine .trans (steady_enterUnparking p) ?_
    exact steady_of_engine _ rfl
  · exact steady_of_engine _ rfl
  · exact steady_slewStart g p

/-- A target handed over while no trip is on leaves the engine in order (R109). -/
theorem engineTakes_ok (g : Assignment) {p : Part} (ho : p.EngineOk) (h : p.tripOn = false) :
    (engineTakes g p).EngineOk := by
  unfold engineTakes
  split
  · next hm => exact redirect_ok g hm h
  · next hm =>
    exact engineOk_of_dropped (ho.no_target (by rw [hm]; rfl)) rfl h
  · next hm => exact engineOk_of_dropped (ho.no_target (by rw [hm]; rfl)) (by simp [hm, Motion.following]) h
  · exact slewStart_ok g h

/-- A request is refused when the engine counts as tripped. -/
theorem not_tripped_of_requestRefused {ok : Bool} {p : Part} (h : requestRefused ok p = none) :
    p.tripOn = false := by
  unfold requestRefused at h
  split at h
  · cases h
  · next hc => exact tripOff_of_counts (by simpa using hc)

theorem inner_beginWork {goOn : Part → Part} (hg : ∀ q, Inner q (goOn q)) (e : Entry) (c : Coords) (x : Ms)
    (p : Part) : Inner p (beginWork goOn e c x p) := by
  have hm := inner_markCurrent e p
  unfold beginWork
  dsimp only
  generalize markCurrent e p = q at hm ⊢
  refine hm.trans ?_
  split
  · exact (inner_createClosed _ _ _ q).trans ((inner_removeEntry _ _).trans (hg _))
  · split
    · exact inner_refuseWork e _ q
    · next hr =>
      have ht := not_tripped_of_requestRefused hr
      generalize hl : (if q.engine.motion.slewsNow = true then leaveForSlew q.log.next q else q) = w
      have h1 : Inner q w := by
        rw [← hl]
        split
        · exact inner_leaveForSlew _ q
        · exact .refl q
      have h2 := h1.trans (inner_openWork e (some x) w)
      have hf : w.faults = q.faults := by
        rw [← hl]
        split
        · unfold leaveForSlew
          dsimp only
          split
          · split
            · split <;> simp
            · simp
          · simp
        · rfl
      refine ⟨h2.toSteady.trans (steady_engineTakes _ _), fun ho => engineTakes_ok _ (h2.engine ho) ?_⟩
      rw [tripOn_of_same (p := q) (by simp [hf]) h2.inputs, ht]

theorem inner_skipEntry {goOn : Part → Part} (hg : ∀ q, Inner q (goOn q)) (e : Entry) (o : Ending) (p : Part) :
    Inner p (skipEntry goOn e o p) :=
  (inner_createClosed _ _ _ p).trans ((inner_removeEntry _ _).trans (hg _))

theorem inner_startCheck {goOn : Part → Part} (hg : ∀ q, Inner q (goOn q)) (e : Entry) (c : Coords) (p : Part) :
    Inner p (startCheck goOn e c p) := by
  unfold startCheck
  dsimp only
  split
  · exact inner_skipEntry hg e _ p
  · exact inner_beginWork hg e c _ p

theorem inner_decideTarget {goOn : Part → Part} (hg : ∀ q, Inner q (goOn q)) (e : Entry) (c : Coords) (p : Part) :
    Inner p (decideTarget goOn e c p) := by
  unfold decideTarget
  split
  · exact inner_startCheck hg e c p
  · dsimp only
    split
    · exact inner_of_runner _ rfl
    · exact inner_startCheck hg e c p

theorem inner_decideMark {goOn : Part → Part} (hg : ∀ q, Inner q (goOn q)) (e : Entry) (p : Part) :
    Inner p (decideMark goOn e p) := by
  unfold decideMark
  dsimp only
  refine (inner_createClosed (.list e.id) .mark .markReached p).trans ((inner_removeEntry e.id _).trans ?_)
  generalize removeEntry e.id _ = q
  have h : Inner q { q with alerts := { q.alerts with mark := true } } := inner_of_alerts _
  split
  · exact h.trans (inner_enterHeld .mark _)
  · exact h.trans (hg _)

/-! ### A PARK entry (R104) -/

theorem inner_enginePark (p : Part) : Inner p (enginePark p) := by
  unfold enginePark
  split
  · next h =>
    have ha := (inner_leavePassage p).trans (inner_endGoto .ended _)
    refine ⟨ha.toSteady.trans (steady_enterParking _), fun ho => enterParking_ok ((ha.engine ho).tripOff ?_)⟩
    simp only [endGoto_engine, leavePassage_motion]
    cases hm : p.engine.motion <;> simp_all [Motion.takesPark, Motion.stilled]
  · exact .refl p

theorem inner_workPark (e : Entry) (p : Part) : Inner p (workPark e p) := by
  unfold workPark
  dsimp only
  have h : Inner p (startRecord (enginePark p).log.next (openWork e none (enginePark p))) :=
    (inner_enginePark p).trans ((inner_openWork e none _).trans (inner_startRecord _ _))
  split
  · exact h.trans ((inner_closeAs .parked _).trans (inner_enterIdle _))
  · exact h

theorem inner_decidePark (e : Entry) (p : Part) : Inner p (decidePark e p) := by
  unfold decidePark
  dsimp only
  refine (inner_markCurrent e p).trans ?_
  split
  · exact inner_workPark e _
  · exact inner_refuseWork e _ _

/-! ### Taking up the head (R101) -/

theorem inner_decideWith {goOn : Part → Part} (hg : ∀ q, Inner q (goOn q)) (e : Entry) (p : Part) :
    Inner p (decideWith goOn e p) := by
  unfold decideWith
  split
  · exact inner_decideTarget hg e _ p
  · exact inner_decideMark hg e p
  · exact inner_decidePark e p

theorem inner_decideVisit {goOn : Part → Part} (hg : ∀ q, Inner q (goOn q)) (e : Entry) (p : Part) :
    Inner p (decideVisit goOn e p) := by
  unfold decideVisit
  split
  · refine .trans (q := { p with runner := { p.runner with
      state := .intercept, ctx := { p.runner.ctx with fired := true } } }) ?_ (inner_of_alerts _)
    exact inner_of_runner _ rfl
  · exact inner_decideWith hg e p

theorem inner_takeUpFuel (n : Nat) (p : Part) : Inner p (takeUpFuel n p) := by
  induction n generalizing p with
  | zero => exact .refl p
  | succ n ih =>
    unfold takeUpFuel
    split
    · exact inner_enterEmpty p
    · refine .trans ?_ (inner_decideVisit (fun q => inner_goOnWith (fun r => ih r) q) _ _)
      exact inner_of_runner _ rfl

theorem inner_takeUp (p : Part) : Inner p (takeUp p) := inner_takeUpFuel _ p

theorem inner_goOn (p : Part) : Inner p (goOn p) := inner_goOnWith inner_takeUp p

/-! ### What the runner is told -/

theorem inner_noticeHead (p : Part) : Inner p (noticeHead p) := by
  unfold noticeHead
  split
  · split
    · exact inner_takeUp p
    · exact .refl p
  · split
    · exact .refl p
    · exact inner_takeUp p
  · split
    · exact .refl p
    · exact inner_takeUp p
  · exact .refl p

theorem inner_noticeSubstituted (p : Part) : Inner p (noticeSubstituted p) := by
  unfold noticeSubstituted
  split
  · refine .trans ?_ (inner_decideVisit inner_goOn _ _)
    exact inner_of_runner _ rfl
  · exact .refl p

/-- A worked entry is closed, or there is none to close. -/
theorem inner_closeIf (b : Bool) (o : Ending) (p : Part) : Inner p (if b = true then closeAs o p else p) := by
  split
  · exact inner_closeAs o p
  · exact .refl p

theorem inner_runnerTrip (p : Part) : Inner p (runnerTrip p) := by
  unfold runnerTrip
  dsimp only
  refine (inner_closeIf p.runner.state.working .tripped p).trans ?_
  generalize (if p.runner.state.working = true then closeAs .tripped p else p) = q
  have h : Inner q (match q.runner.state with
      | .idle => q
      | _ => enterHeld .trip q) := by
    split
    · exact .refl q
    · exact inner_enterHeld .trip q
  exact h.trans (inner_of_runner _ rfl)

theorem inner_runnerWind (p : Part) : Inner p (runnerWind p) := by
  unfold runnerWind
  split
  · exact .refl p
  · exact (inner_closeIf _ .stowed p).trans ((inner_enterHeld .wind _).trans (inner_of_runner _ rfl))

theorem inner_runnerGoto (p : Part) : Inner p (runnerGoto p) := by
  unfold runnerGoto
  split
  · exact .refl p
  · dsimp only
    refine .trans ?_ (inner_enterHeld .goto _)
    split
    · exact .refl p
    · split
      · exact inner_closeAs _ p
      · exact inner_closeWork (fun n q => inner_supersedeRecord n q.log.next q) p

theorem inner_runnerStop (p : Part) : Inner p (runnerStop p) := by
  unfold runnerStop
  split
  · exact .refl p
  · exact (inner_closeIf _ .stopped p).trans (inner_enterHeld .stop _)

theorem inner_runnerPark (p : Part) : Inner p (runnerPark p) := by
  unfold runnerPark
  split
  · exact .refl p
  · exact (inner_closeIf _ .parked p).trans (inner_enterHeld .park _)

theorem inner_runnerParked (p : Part) : Inner p (runnerParked p) := by
  unfold runnerParked
  split
  · exact (inner_closeAs .parked p).trans (inner_enterIdle _)
  · exact .refl p

theorem inner_runnerEnding (o : Ending) (b : Bool) (p : Part) : Inner p (runnerEnding o b p) := by
  unfold runnerEnding
  split
  · exact (inner_closeAs o p).trans (inner_goOnLater _)
  · exact .refl p

/-! ### Reports (R157, R158) -/

/-- A report keeps everything steady, whatever its severity; a trip leaves the engine in order by itself. -/
theorem inner_report (r : Report) (p : Part) : Inner p (report r p) := by
  unfold report
  dsimp only
  split
  · refine ⟨(steady_recordFault r p).trans ((steady_engineTrip _).trans (inner_runnerTrip _).toSteady), fun ho => ?_⟩
    exact (inner_runnerTrip _).engine (engineTrip_ok ho.1)
  · next h => exact inner_recordFault (by rw [h]; decide) p
  · next h => exact inner_recordFault (by rw [h]; decide) p

/-- A trip leaves the engine in order even where the inputs had just changed under it. -/
theorem report_trip_ok {r : Report} (hr : r.reason.severity = .trip) {p : Part}
    (h : p.engine.target.isSome = p.engine.motion.following) : (report r p).EngineOk := by
  unfold report
  dsimp only
  rw [hr]
  exact (inner_runnerTrip _).engine (engineTrip_ok h)

/-! ### The dome, give-up, dwell and start instant (R106, R110, R111, R113) -/

theorem inner_domeTimeout (p : Part) : Inner p (domeTimeout p) :=
  (inner_report _ p).trans ((inner_closeAs .domeTimeout _).trans ((inner_stopMotion _).trans (inner_goOnLater _)))

theorem inner_domeCheck (p : Part) : Inner p (domeCheck p) := by
  unfold domeCheck
  split
  · exact inner_domeTimeout p
  · exact .refl p

theorem inner_startAbsence (p : Part) : Inner p (startAbsence p) := by
  unfold startAbsence
  split
  · exact .refl p
  · refine .trans ?_ (inner_domeCheck _)
    exact inner_of_runner _ rfl

theorem inner_enterObserving (p : Part) : Inner p (enterObserving p) := inner_of_runner _ rfl

theorem inner_runnerTracking (p : Part) : Inner p (runnerTracking p) := by
  unfold runnerTracking
  split
  · exact .refl p
  · split
    · exact inner_enterObserving p
    · split
      · exact .refl p
      · split
        · exact inner_enterObserving p
        · exact inner_startAbsence p

theorem inner_runnerChase (p : Part) : Inner p (runnerChase p) := by
  unfold runnerChase
  split
  · exact inner_of_runner _ rfl
  · exact .refl p

theorem inner_domePresent (p : Part) : Inner p (domePresent p) := by
  unfold domePresent
  split
  · exact .refl p
  · dsimp only
    split
    · refine .trans ?_ (inner_enterObserving _)
      exact inner_of_runner _ rfl
    · exact inner_of_runner _ rfl

theorem inner_absenceIf (b : Bool) (p : Part) : Inner p (if b = true then startAbsence p else p) := by
  split
  · exact inner_startAbsence p
  · exact .refl p

theorem inner_domeAbsent (p : Part) : Inner p (domeAbsent p) := inner_absenceIf _ p

theorem inner_domeEnabled (p : Part) : Inner p (domeEnabled p) := inner_absenceIf _ p

theorem inner_stopUnless (b : Bool) (p : Part) : Inner p (if b = true then p else stopMotion p) := by
  split
  · exact .refl p
  · exact inner_stopMotion p

theorem inner_giveUp (p : Part) : Inner p (giveUp p) := by
  unfold giveUp
  split
  · exact (inner_closeAs .timedOut p).trans ((inner_stopUnless _ _).trans (inner_goOnLater _))
  · exact .refl p

theorem inner_dwellComplete (p : Part) : Inner p (dwellComplete p) := by
  unfold dwellComplete
  split
  · exact (inner_closeAs .complete p).trans (inner_goOnLater _)
  · exact .refl p

theorem inner_startInstant (p : Part) : Inner p (startInstant p) := by
  unfold startInstant
  split
  · split
    · split
      · exact inner_startCheck inner_goOn _ _ p
      · exact .refl p
    · exact .refl p
  · exact .refl p

theorem inner_clockChanged (p : Part) : Inner p (clockChanged p) := (inner_giveUp p).trans (inner_startInstant _)

theorem inner_startRunning (p : Part) : Inner p (startRunning p) := by
  refine .trans ?_ (inner_takeUp _)
  exact inner_of_runner _ rfl

theorem inner_runnerRelease (p : Part) : Inner p (runnerRelease p) := by
  unfold runnerRelease
  split
  · exact inner_startRunning p
  · exact .refl p

theorem inner_skipHead (p : Part) : Inner p (skipHead p) := by
  unfold skipHead
  split
  · split
    · exact inner_skipEntry inner_goOn _ _ p
    · exact .refl p
  · split
    · exact inner_skipEntry inner_goOn _ _ p
    · exact .refl p
  · exact (inner_closeAs .skippedHost p).trans ((inner_stopUnless _ _).trans (inner_goOn _))
  · exact (inner_closeAs .skippedHost p).trans ((inner_stopUnless _ _).trans (inner_goOn _))
  · exact .refl p

end Sys2Proof.Machine
end

