-- ==== Sys2Proof/Laws/IntervalLaws.lean ====
section
/-! SUPPORT. What a demand interval, a correction and the engine's timed events keep (Guide.lean, Interval.lean): one lemma
per operation. -/

namespace Sys2Proof.Machine

/-- With a run in the wrap choice only the position tested ends a target by its azimuth (R60, R62). -/
@[simp] theorem azEnds_of_run {p : Part} {t : Target} (h : t.noRun = false) (az : Mas) :
    azEnds p t az = !(azInside p.engine.cfg az) := by
  simp [azEnds, h]

/-! ### The Guide Unit (R128 to R131) -/

theorem clampTo_within {b x : Int} (hb : 0 ≤ b) : within b (clampTo (-b) b x) = true := by
  refine decide_eq_true ?_
  unfold clampTo
  split
  · omega
  · split <;> omega

/-- A ramp step never carries an accumulated offset past its bound (R131). -/
theorem rampStep_bound (s acc rem : Mas) : within guideBound (rampStep s acc rem).acc = true := by
  unfold rampStep
  dsimp only
  split
  · next h => exact h
  · exact clampTo_within (by decide)

theorem inner_saturate (b : Bool) (p : Part) : Inner p (saturate b p) := by
  unfold saturate
  split
  · dsimp only
    refine .trans (inner_report (saturationReport p) p) (.trans ?_ (inner_writeCounters _))
    exact inner_of_guide _ rfl rfl rfl id
  · exact .refl p

theorem inner_guideRamp (p : Part) : Inner p (guideRamp p) := by
  unfold guideRamp
  split
  · refine .trans ?_ (.trans (inner_saturate _ _) (inner_saturate _ _))
    exact inner_of_guide _ rfl rfl rfl fun h => ⟨rampStep_bound _ _ _, rampStep_bound _ _ _, h.2.2⟩
  · exact .refl p

theorem satCount_le (n : Nat) : satCount n ≤ 65535 := Nat.min_le_left _ _

theorem inner_takeCorrection (a e : Mas) (p : Part) : Inner p (takeCorrection a e p) := by
  refine .trans ?_ (inner_writeCounters _)
  exact inner_of_guide _ rfl rfl rfl fun h => ⟨h.1, h.2.1, satCount_le _, satCount_le _, satCount_le _⟩

/-! ### Endings (R62, R73, R74) -/

theorem inner_reportEnding (o : Option Report) (p : Part) : Inner p (reportEnding o p) := by
  unfold reportEnding
  split
  · split
    · exact inner_report _ p
    · exact .refl p
  · exact .refl p

/-- A report of what is no trip leaves the engine as it was. -/
theorem report_engine {r : Report} (h : r.reason.severity ≠ .trip) (p : Part) : (report r p).engine = p.engine := by
  unfold report
  dsimp only
  split
  · next hs => exact absurd hs h
  · rfl
  · rfl

theorem reportEnding_engine {o : Option Report} (h : ∀ r, o = some r → r.reason.severity ≠ .trip) (p : Part) :
    (reportEnding o p).engine = p.engine := by
  unfold reportEnding
  split
  · next r =>
    split
    · exact report_engine (h r rfl) p
    · rfl
  · rfl

/-- Every ending's report is of ABANDON severity (R156). -/
theorem endingAt_severity {p : Part} {t : Target} {pl : Option Place} {q : AxisPair} {b : Bool} {o : Ending}
    {r : Report} (h : endingAt p t pl q b = some (o, some r)) : r.reason.severity = .abandon := by
  unfold endingAt at h
  split at h
  · injection h with h; injection h with _ h; injection h with h; subst h; rfl
  · split at h
    · injection h with h; injection h with _ h; exact nomatch h
    · split at h
      · injection h with h; injection h with _ h; injection h with h; subst h; rfl
      · split at h
        · injection h with h; injection h with _ h; injection h with h; subst h; rfl
        · exact nomatch h

/-- Ending a target from a state that follows one leaves everything steady and the engine in order. -/
theorem inner_endTarget {o : Ending} {rep : Option Report} {p : Part}
    (hr : ∀ r, rep = some r → r.reason.severity ≠ .trip) (hm : p.engine.motion.stilled = false) :
    Inner p (endTarget o rep p) := by
  unfold endTarget
  have h1 := inner_reportEnding rep p
  have he := reportEnding_engine hr p
  generalize reportEnding rep p = q at h1 he ⊢
  have h2 := h1.trans ((inner_leavePassage q).trans (inner_endGoto o _))
  refine .trans ?_ (inner_runnerEnding _ _ _)
  refine ⟨h2.toSteady.trans (steady_enterStopping _), fun ho => enterStopping_ok ((h2.engine ho).tripOff ?_)⟩
  simp [he, hm]

/-! ### Steps 1 and 2 (R29, R47, R48, R143) -/

theorem inner_countDisturbed (p : Part) : Inner p (countDisturbed p) := by
  unfold countDisturbed
  split
  · refine inner_changeRecord _ ?_ _
    exact keepsRecord_of_eq fun _ => ⟨rfl, rfl, rfl, rfl⟩
  · exact .refl p

@[simp] theorem countDisturbed_engine (p : Part) : (countDisturbed p).engine = p.engine := by
  unfold countDisturbed
  split
  · simp
  · rfl

theorem inner_readAxes (a e : Int) (p : Part) : Inner p (readAxes a e p) := by
  refine .trans ?_ (inner_countDisturbed _)
  exact inner_of_engine_same _ rfl rfl rfl

/-- What steps 1 and 2 of R29 leave of the engine. -/
@[simp] theorem readAxes_engine (a e : Int) (p : Part) : (readAxes a e p).engine = p.sampledEngine a e := by
  simp [readAxes]

@[simp] theorem sampledEngine_motion (a e : Int) (p : Part) : (p.sampledEngine a e).motion = p.engine.motion := rfl
@[simp] theorem sampledEngine_target (a e : Int) (p : Part) : (p.sampledEngine a e).target = p.engine.target := rfl

theorem inner_wrapCheck (p : Part) : Inner p (wrapCheck p) := by
  unfold wrapCheck
  split
  · exact .refl p
  · split
    · split
      · exact .refl p
      · refine .trans ?_ (inner_report _ _)
        exact inner_of_engine_same _ rfl rfl rfl
    · exact inner_of_engine_same _ rfl rfl rfl

/-! ### Step 3: the states that follow a target -/

theorem inner_withEngine_same {p : Part} (e : Engine) (hc : e.cfg = p.engine.cfg) (hm : e.motion = p.engine.motion)
    (ht : e.target.isSome = p.engine.target.isSome) : Inner p (p.withEngine e) := inner_of_engine_same e hc hm ht

theorem inner_noteEvaluation (a : Aim) (p : Part) : Inner p (noteEvaluation a p) := by
  have h : Inner p (noteAzimuth a p) := by
    unfold noteAzimuth
    split
    · exact inner_of_lastAz _
    · exact .refl p
  exact h.trans (inner_withEngine_same _ rfl rfl rfl)

@[simp] theorem noteAzimuth_engine (a : Aim) (p : Part) : (noteAzimuth a p).engine = p.engine := by
  unfold noteAzimuth
  split <;> rfl

@[simp] theorem noteEvaluation_motion (a : Aim) (p : Part) : (noteEvaluation a p).engine.motion = p.engine.motion := by
  simp [noteEvaluation, Engine.sees]

@[simp] theorem noteEvaluation_target (a : Aim) (p : Part) : (noteEvaluation a p).engine.target = p.engine.target := by
  simp [noteEvaluation, Engine.sees]

/-- An engine that moves between states that follow a target, and has one. -/
theorem inner_of_following {p : Part} (e : Engine) (hc : e.cfg = p.engine.cfg) (hp : p.engine.motion.following = true)
    (hm : e.motion.following = true) (ht : e.target.isSome = p.engine.target.isSome) : Inner p (p.withEngine e) := by
  refine inner_of_engine e hc fun ho => ?_
  have hs : p.engine.motion.stilled = false := by
    cases h : p.engine.motion <;> simp_all [Motion.following, Motion.stilled]
  exact engineOk_of_tripOff (ho.tripOff hs) (by rw [show ({ p with engine := e } : Part).engine = e from rfl, hm, ht, ho.1, hp])

/-- The re-evaluated destination keeps the state (R32, R56). -/
theorem inner_reDestine (t : Target) {p : Part} (h : p.engine.target.isSome = true) : Inner p (reDestine t p).1 := by
  unfold reDestine
  dsimp only
  refine (inner_noteEvaluation _ p).trans (inner_withEngine_same _ rfl rfl ?_)
  simp [h]

theorem reDestine_motion (t : Target) (p : Part) : (reDestine t p).1.engine.motion = p.engine.motion := by
  simp [reDestine]

theorem stilled_of_following {m : Motion} (h : m.following = true) : m.stilled = false := by
  cases m <;> simp_all [Motion.following, Motion.stilled]

/-- A target ended by what an evaluation met, or not ended. -/
theorem inner_endOr {p : Part} {t : Target} {pl : Option Place} {q : AxisPair} {b : Bool} (k : Part)
    (hm : p.engine.motion.following = true) (hk : Inner p k) :
    Inner p (match endingAt p t pl q b with
      | some e => endTarget e.1 e.2 p
      | none => k) := by
  split
  · next e he =>
    refine inner_endTarget (fun r hr => ?_) (stilled_of_following hm)
    have : e = (e.1, some r) := by rw [← hr]
    rw [endingAt_severity (this ▸ he)]
    decide
  · exact hk

theorem inner_enterTracking {p : Part} (hm : p.engine.motion.following = true) : Inner p (enterTracking p) := by
  refine (inner_leavePassage p).trans (.trans ?_ ((inner_noticeGuide _).trans (inner_runnerTracking _)))
  exact inner_of_following _ rfl (by simpa using hm) rfl (by simp)

theorem inner_arrive {p : Part} (hm : p.engine.motion.following = true) : Inner p (arrive p) := by
  unfold arrive
  dsimp only
  have h : Inner p (changeRecord p.attached (fun r => { r with arrived := some p.stamp }) p) := by
    refine inner_changeRecord _ ?_ p
    exact keepsRecord_of_eq fun _ => ⟨rfl, rfl, rfl, rfl⟩
  generalize hq : changeRecord p.attached (fun r => { r with arrived := some p.stamp }) p = q at h ⊢
  have hqm : q.engine.motion.following = true := by rw [← hq]; simpa using hm
  have h2 : Inner q (q.withEngine { q.engine with
      motion := .settling, arrivedAt := some q.now,
      target := q.engine.target.map fun t => { t with arrived := true } }) :=
    inner_of_following _ rfl hqm rfl (by simp)
  split
  · exact (h.trans h2).trans (inner_enterTracking rfl)
  · exact h.trans h2

theorem inner_stepSlewing (t : Target) {p : Part} (hm : p.engine.motion.following = true)
    (ht : p.engine.target.isSome = true) : Inner p (stepSlewing t p) := by
  have h1 := inner_reDestine t ht
  have hm1 : (reDestine t p).1.engine.motion.following = true := by rw [reDestine_motion, hm]
  unfold stepSlewing
  generalize reDestine t p = d at h1 hm1 ⊢
  obtain ⟨q, a, x⟩ := d
  dsimp only at h1 hm1 ⊢
  refine h1.trans (.trans (inner_withEngine_same (q.engine.slewBoth t.dest x) rfl rfl rfl) ?_)
  refine inner_endOr _ hm1 ?_
  split
  · exact inner_arrive hm1
  · exact .refl _

theorem inner_followTarget (t : Target) (a : Aim) (q : AxisPair) (b : Bool) {p : Part}
    (hm : p.engine.motion.following = true) : Inner p (followTarget t a q b p) := by
  refine .trans (inner_withEngine_same (p.engine.followBoth q) rfl rfl rfl) ?_
  exact inner_endOr _ hm (.refl _)

theorem inner_stepSettling (t : Target) {p : Part} (hm : p.engine.motion.following = true)
    (ht : p.engine.target.isSome = true) : Inner p (stepSettling t p) := by
  have h1 := inner_reDestine t ht
  have hm1 : (reDestine t p).1.engine.motion.following = true := by rw [reDestine_motion, hm]
  unfold stepSettling
  generalize reDestine t p = d at h1 hm1 ⊢
  obtain ⟨q, a, x⟩ := d
  exact h1.trans (inner_followTarget t a x false hm1)

/-- Ending by one of the model's own reports of ABANDON severity. -/
theorem inner_endTarget_here {o : Ending} {p : Part} (s : Source) {r : Reason} (e : Option Nat)
    (hr : r.severity ≠ .trip) (hm : p.engine.motion.following = true) :
    Inner p (endTarget o (some (p.reportHere s r e)) p) := by
  refine inner_endTarget (fun x hx => ?_) (stilled_of_following hm)
  injection hx with hx
  subst hx
  exact hr

theorem inner_keyholeEntry (t : Target) (pl : Place) {p : Part} (hm : p.engine.motion.following = true)
    (ht : p.engine.target.isSome = true) : Inner p (keyholeEntry t pl p) := by
  unfold keyholeEntry
  dsimp only
  split
  · exact inner_endTarget_here _ _ (by decide) hm
  · exact inner_of_following _ rfl hm rfl (by simp [ht])

/-- A guide ramp's reports are notices: the engine is left as it was. -/
theorem saturate_engine (b : Bool) (p : Part) : (saturate b p).engine = p.engine := by
  unfold saturate
  split
  · simp only [writeCounters_engine]
    exact report_engine (by simp [saturationReport, Part.reportHere, Reason.severity]) p
  · rfl

theorem guideRamp_engine (p : Part) : (guideRamp p).engine = p.engine := by
  unfold guideRamp
  split
  · simp only [saturate_engine]
  · rfl

theorem inner_stepTracking (t : Target) {p : Part} (hm : p.engine.motion.following = true)
    (ht : p.engine.target.isSome = true) : Inner p (stepTracking t p) := by
  unfold stepTracking
  dsimp only
  have h1 := inner_guideRamp p
  have he := guideRamp_engine p
  generalize guideRamp p = q at h1 he ⊢
  have h2 := h1.trans (inner_noteEvaluation (aimDemand q t.given.coords) q)
  have hm2 : (noteEvaluation (aimDemand q t.given.coords) q).engine.motion.following = true := by simp [he, hm]
  have ht2 : (noteEvaluation (aimDemand q t.given.coords) q).engine.target.isSome = true := by simp [he, ht]
  generalize noteEvaluation (aimDemand q t.given.coords) q = w at h2 hm2 ht2 ⊢
  split
  · exact h2.trans (inner_keyholeEntry t _ hm2 ht2)
  · exact h2.trans (inner_followTarget t _ _ true hm2)

theorem inner_zoneCheck (t : Target) {p : Part} (hm : p.engine.motion.following = true) : Inner p (zoneCheck t p) := by
  unfold zoneCheck
  split
  · exact inner_endTarget_here _ _ (by decide) hm
  · exact .refl p

theorem inner_stepSwing (t : Target) (k : Passage) {p : Part} (hm : p.engine.motion.following = true) :
    Inner p (stepSwing t k p) :=
  .trans (inner_withEngine_same (p.engine.swing k.exitAz) rfl rfl rfl) (inner_zoneCheck t hm)

theorem runnerChase_engine (p : Part) : (runnerChase p).engine = p.engine := by
  unfold runnerChase
  split <;> rfl

theorem inner_keyholeExit (t : Target) (k : Passage) {p : Part} (hm : p.engine.motion.following = true)
    (ht : p.engine.target.isSome = true) : Inner p (keyholeExit t k p) := by
  have h1 : Inner p (p.withEngine p.engine.leaveKeyhole) := inner_of_following _ rfl hm rfl rfl
  refine .trans (h1.trans ((inner_guideReset _).trans (inner_runnerChase _))) (inner_stepSlewing _ ?_ ?_)
  · rw [runnerChase_engine]; rfl
  · rw [runnerChase_engine]; exact ht

theorem inner_stepKeyhole (t : Target) {p : Part} (hm : p.engine.motion.following = true)
    (ht : p.engine.target.isSome = true) : Inner p (stepKeyhole t p) := by
  unfold stepKeyhole
  split
  · exact .refl p
  · split
    · refine .trans (inner_withEngine_same (p.engine.sees (aimDemand p t.given.coords)) rfl rfl rfl) ?_
      dsimp only
      split
      · exact inner_stepSwing t _ hm
      · exact inner_keyholeExit t _ hm ht
    · exact inner_stepSwing t _ hm

/-! ### Step 3: the other states -/

/-- An engine that moves between states without a target while no trip is on. -/
theorem inner_of_targetless {p : Part} (e : Engine) (hc : e.cfg = p.engine.cfg)
    (hp : p.engine.motion.following = false) (hs : p.engine.motion.stilled = false)
    (hm : e.motion.following = false) (ht : e.target = p.engine.target) : Inner p (p.withEngine e) := by
  refine inner_of_engine e hc fun ho => ?_
  refine engineOk_of_tripOff (ho.tripOff hs) ?_
  simp [ht, hm, ho.1, hp]

theorem inner_stepStopping (p : Part) : Inner p (stepStopping p) := by
  refine .trans ?_ (inner_restCheck _)
  exact inner_withEngine_same _ rfl rfl rfl

theorem inner_stepParking {p : Part} (hm : p.engine.motion = .parking) : Inner p (stepParking p) := by
  unfold stepParking
  dsimp only
  refine .trans (inner_withEngine_same (p.engine.slewBoth p.engine.cfg.park p.engine.cfg.park) rfl rfl rfl) ?_
  split
  · refine .trans ?_ ((inner_boundary _).trans (inner_runnerParked _))
    exact inner_of_targetless _ rfl (by simp [hm, Motion.following]) (by simp [hm, Motion.stilled])
      (by simp [Motion.following]) rfl
  · exact .refl _

theorem inner_enterStowed {p : Part} (hm : p.engine.motion = .stowing) : Inner p (enterStowed p) :=
  inner_of_targetless _ rfl (by simp [hm, Motion.following]) (by simp [hm, Motion.stilled]) rfl rfl

theorem inner_stowRestCheck (p : Part) : Inner p (stowRestCheck p) := by
  unfold stowRestCheck
  split
  · next h =>
    simp only [Bool.and_eq_true, beq_iff_eq] at h
    exact inner_enterStowed h.1.1
  · exact .refl p

theorem inner_stepStowing {p : Part} (hm : p.engine.motion = .stowing) : Inner p (stepStowing p) := by
  unfold stepStowing
  split
  · exact .trans (inner_withEngine_same p.engine.easeBoth rfl rfl rfl) (inner_stowRestCheck _)
  · refine .trans (inner_withEngine_same p.engine.stowBoth rfl rfl rfl) ?_
    unfold stowArrivalCheck
    split
    · exact inner_enterStowed hm
    · exact .refl _

theorem inner_referenceCheck (p : Part) : Inner p (referenceCheck p) := by
  unfold referenceCheck
  dsimp only
  split
  · exact .refl p
  · next h =>
    have hm : p.engine.motion = .referencing := by
      cases hm : p.engine.motion <;> simp_all
    split
    · exact inner_of_targetless _ rfl (by simp [hm, Motion.following]) (by simp [hm, Motion.stilled]) rfl rfl
    · split
      · have h1 : Inner p (p.withEngine (p.engine.mapAxes fun x => { x with search := none })) :=
          inner_withEngine_same _ rfl rfl rfl
        refine ⟨h1.toSteady.trans (steady_readyArrival _), fun ho => readyArrival_ok ?_⟩
        exact (h1.engine ho).tripOff (by simp [hm, Motion.stilled])
      · exact .refl p

theorem inner_stepReferencing (p : Part) : Inner p (stepReferencing p) := by
  refine .trans ?_ (inner_referenceCheck _)
  exact inner_withEngine_same _ rfl rfl rfl

theorem setAxis_motion (e : Engine) (a : Axis) (x : AxisState) : (e.setAxis a x).motion = e.motion := by
  cases a <;> rfl

theorem setAxis_cfg (e : Engine) (a : Axis) (x : AxisState) : (e.setAxis a x).cfg = e.cfg := by
  cases a <;> rfl

theorem setAxis_target (e : Engine) (a : Axis) (x : AxisState) : (e.setAxis a x).target = e.target := by
  cases a <;> rfl

theorem inner_backoutCheck (p : Part) : Inner p (backoutCheck p) := by
  unfold backoutCheck
  split
  · split
    · next h =>
      have hm : p.engine.motion = .backout := by
        simp only [Bool.and_eq_true, beq_iff_eq] at h
        exact h.1.1
      refine .trans ?_ (inner_boundary _)
      refine inner_of_engine _ (setAxis_cfg _ _ _) fun ho => engineOk_of_stilled rfl ?_
      simp only [setAxis_target]
      exact ho.no_target (by simp [hm, Motion.following])
    · exact .refl p
  · exact .refl p

theorem inner_setAxis (a : Axis) (x : AxisState) (p : Part) : Inner p (p.withEngine (p.engine.setAxis a x)) :=
  inner_withEngine_same _ (setAxis_cfg _ _ _) (setAxis_motion _ _ _) (by rw [setAxis_target])

theorem inner_stepBackout (p : Part) : Inner p (stepBackout p) := by
  unfold stepBackout
  split
  · exact .refl p
  · next b _ =>
    dsimp only
    generalize (p.engine.axis b.axis).drive _ _ = x
    refine .trans (inner_setAxis b.axis x p) ?_
    split
    · exact inner_report _ _
    · exact inner_backoutCheck _

theorem inner_stepHeld (p : Part) : Inner p (stepHeld p) := inner_withEngine_same _ rfl rfl rfl

/-- A step that follows a target, taken only where there is one. -/
theorem inner_withTarget {f : Target → Part → Part} {p : Part}
    (hf : ∀ t, p.engine.target.isSome = true → Inner p (f t p)) : Inner p (withTarget f p) := by
  unfold withTarget
  split
  · next t h => exact hf t (by simp [h])
  · exact .refl p

/-- Step 3 of R29 keeps everything but the engine's motion, the runner's context and what reports write. -/
theorem inner_newDemand (p : Part) : Inner p (newDemand p) := by
  unfold newDemand
  split
  case _ | _ | _ => exact .refl p
  case _ | _ => exact inner_withEngine_same _ rfl rfl rfl
  case _ | _ | _ => exact inner_stepHeld p
  case _ h => exact inner_withTarget fun t ht => inner_stepSlewing t (by simp [h, Motion.following]) ht
  case _ h => exact inner_withTarget fun t ht => inner_stepSettling t (by simp [h, Motion.following]) ht
  case _ h => exact inner_withTarget fun t ht => inner_stepTracking t (by simp [h, Motion.following]) ht
  case _ h => exact inner_withTarget fun t ht => inner_stepKeyhole t (by simp [h, Motion.following]) ht
  · exact inner_stepStopping p
  case _ h => exact inner_stepParking h
  case _ h => exact inner_stepStowing h
  · exact inner_stepReferencing p
  · exact inner_stepBackout p

theorem inner_interval10 (a e : Int) (p : Part) : Inner p (interval10 a e p) := by
  refine .trans ?_ (.trans (inner_readAxes a e _) (.trans (inner_wrapCheck _) (inner_newDemand _)))
  exact inner_withEngine_same _ rfl rfl rfl

theorem inner_demandStep (a e : Int) (p : Part) : Inner p (demandStep a e p) := by
  unfold demandStep
  split
  · exact inner_interval10 a e p
  · exact .refl p

/-! ### The engine's timed events (R34, R40, R48) -/

theorem inner_settleStep (p : Part) : Inner p (settleStep p) := by
  unfold settleStep
  split
  · next h =>
    simp only [Part.settleDue, Bool.and_eq_true, beq_iff_eq] at h
    exact inner_enterTracking (by rw [h.1]; rfl)
  · exact .refl p

theorem inner_followingStep (p : Part) : Inner p (followingStep p) := by
  have hd : Inner p (p.withEngine (p.engine.mapAxes fun x => { x with overSince := none })) :=
    inner_withEngine_same _ rfl rfl rfl
  unfold followingStep
  dsimp only
  split
  · exact .refl p
  · exact hd.trans (inner_report _ _)
  · exact hd.trans (inner_report _ _)
  · exact hd.trans ((inner_report _ _).trans (inner_report _ _))

theorem inner_unparkStep (p : Part) : Inner p (unparkStep p) := by
  unfold unparkStep
  split
  · next h =>
    simp only [Part.unparkDue, Bool.and_eq_true, beq_iff_eq] at h
    exact ⟨steady_readyArrival p, fun ho => readyArrival_ok (ho.tripOff (by rw [h.1]; rfl))⟩
  · exact .refl p

/-! ### The restart's stop (R54, R175) -/

theorem inner_restartHalt (p : Part) : Inner p (restartHalt p) := by
  unfold restartHalt
  split
  · exact .trans (inner_withEngine_same { p.engine with halting := true } rfl rfl rfl) (inner_referenceCheck _)
  · exact .trans (inner_withEngine_same { p.engine with halting := true } rfl rfl rfl) (inner_backoutCheck _)
  · exact .trans (inner_withEngine_same { p.engine.freshProfiles with halting := true } rfl rfl rfl)
      (inner_stowRestCheck _)
  · exact .refl p

theorem inner_restartStop (p : Part) : Inner p (restartStop p) := (inner_stopMotion p).trans (inner_restartHalt _)

/-- Bringing to rest is under way, or done, after a halt of every motion but those that STOP stops (R54). -/
theorem restartHalt_rests {p : Part} (h : p.engine.motion ∉ [.slewing, .settling, .tracking, .keyhole, .parking]) :
    (restartHalt p).engine.underWay = false := by
  unfold restartHalt
  split
  · next hm =>
    unfold referenceCheck
    dsimp only
    split
    · simp [Engine.underWay, hm]
    · simp [Engine.underWay]
  · next hm =>
    unfold backoutCheck
    split
    · split <;> simp [Engine.underWay, hm]
    · simp [Engine.underWay, hm]
  · next hm =>
    unfold stowRestCheck
    split <;> simp [Engine.underWay, enterStowed, hm]
  · cases hm : p.engine.motion <;> simp_all [Engine.underWay]

/-- Entering STOPPING ends in STOPPING, in READY, or in the stow of a wind hold (R35, R37). -/
theorem enterStopping_motion (p : Part) :
    (enterStopping p).engine.motion ∈ ([.stopping, .ready, .stowing] : List Motion) := by
  unfold enterStopping restCheck
  dsimp only
  split
  · unfold readyArrival
    dsimp only
    split
    · simp
    · simp
  · simp

/-- After the engine's part of a restart's step 2 nothing moves but what is being brought to rest (R54). -/
theorem restartStop_rests (p : Part) : (restartStop p).engine.underWay = false := by
  refine restartHalt_rests ?_
  unfold stopMotion
  split
  case _ | _ | _ | _ | _ =>
    have := enterStopping_motion p
    simp only [List.mem_cons, List.not_mem_nil, or_false] at this
    rcases this with h | h | h <;> simp [h]
  · cases hm : p.engine.motion <;> simp_all

/-- An event's effect as usual, or, in a restart, that effect with what it set moving brought to rest (R54, R175). -/
theorem stopBegun_cases (f : Part → Part) (p : Part) :
    stopBegun f p = f p ∨ (f p).power.restarting = true ∧ stopBegun f p = restartStop (f p) := by
  unfold stopBegun
  dsimp only
  split
  · next h =>
    simp only [Bool.and_eq_true] at h
    exact .inr ⟨h.1.1, rfl⟩
  · exact .inl rfl

/-- Outside a restart an event only has its own effect. -/
theorem stopBegun_id {f : Part → Part} {p : Part} (h : (f p).power.restarting = false) : stopBegun f p = f p := by
  simp [stopBegun, h]

/-- An event that sets nothing moving only has its own effect. -/
theorem stopBegun_still {f : Part → Part} {p : Part} (h : (f p).engine.underWay = false) : stopBegun f p = f p := by
  simp [stopBegun, h]

/-- What is brought to rest in a restart stays so through an event (R54). -/
theorem stopBegun_rests {f : Part → Part} {p : Part} (h : (f p).power.restarting = true)
    (hp : p.engine.underWay = false) : (stopBegun f p).engine.underWay = false := by
  unfold stopBegun
  dsimp only
  split
  · exact restartStop_rests _
  · next hn => simpa [h, hp] using hn

/-- An event that begins no motion in a restart comes to its own effect and the notices. -/
theorem onEvent_plain {s : State} {f : Part → Part} (h : stopBegun f s.part = f s.part) : onEvent f s = onPart f s := by
  simp [onEvent, onPart, whenPowered, h]

theorem inner_stopBegun {f : Part → Part} {p : Part} (hf : Inner p (f p)) : Inner p (stopBegun f p) := by
  rcases stopBegun_cases f p with h | ⟨-, h⟩ <;> rw [h]
  · exact hf
  · exact hf.trans (inner_restartStop _)

end Sys2Proof.Machine
end

