-- ==== Sys2Proof/Laws/MessageLaws.lean ====
section
/-! SUPPORT. What taking a frame comes to when its line hears and answers it: one lemma from the owner's answer to the next
state, so that a statement about a message is a statement about its owner. -/

namespace Sys2Proof.Machine

/-- The flags, the record and the reply change nothing the notices look at. -/
theorem Part.Noticed.answered {p : Part} (h : p.Noticed) (ln : Line) (m : MsgName) (r : Result) (out : List RField) :
    (p.answered ln m r out).Noticed := h

/-- Hearing a frame changes nothing the notices look at. -/
theorem Part.Noticed.heard {p : Part} (h : p.Noticed) (ln : Line) : (p.heard ln).Noticed := h

/-- Hearing a frame leaves both mutes. -/
@[simp] theorem heard_muted (p : Part) (ln x : Line) : ((p.heard ln).line.get x).muted = (p.line.get x).muted := by
  cases ln <;> cases x <;> rfl

/-- Hearing a frame leaves the time base. -/
@[simp] theorem heard_now (p : Part) (ln : Line) : (p.heard ln).now = p.now := rfl

/-- Hearing a frame leaves the time stamp. -/
@[simp] theorem heard_stamp (p : Part) (ln : Line) : (p.heard ln).stamp = p.stamp := rfl

/-- Hearing a frame leaves the recognised levels. -/
@[simp] theorem heard_active (p : Part) (ln : Line) (i : InputName) : (p.heard ln).active i = p.active i := rfl

/-- Hearing a frame leaves what counts as tripped. -/
@[simp] theorem heard_countsTripped (p : Part) (ln : Line) : (p.heard ln).countsTripped = p.countsTripped := rfl

/-- A reply to a line that is not muted. -/
theorem sendReply_addressed {p : Part} {ln : Line} (m : MsgName) (r : Result) (out : List RField)
    (hq : (p.line.get ln).muted = false) : sendReply (.known m) ln .addressed r out p = p.replied ln m r out :=
  if_neg (by rw [hq]; decide)

/-- A frame that is heard and answered: the next state from its owner's answer (R183, R184). -/
theorem onPart_answers {s : State} {ln : Line} {m : MsgName} {fs : List Field} {r : Result} {out : List RField} {q : Part}
    (h : Answers s.part ln m) (hm : m ≠ .stat ∧ m ≠ .last ∧ m ≠ .lrst ∧ m ≠ .rset)
    (ho : ownerOf m ln fs (s.part.heard ln) = { result := r, fields := out, part := q })
    (hq : (q.line.get ln).muted = false) :
    onPart (messageStep (.known m) (ownFrame ln) fs) s = .next { s with part := notices (q.answered ln m r out) } := by
  have hf : ((q.flagged ln m r).line.get ln).muted = false := by cases ln <;> exact hq
  have hs : sendReply (.known m) ln .addressed r out (q.flagged ln m r) = q.answered ln m r out :=
    sendReply_addressed m r out hf
  rw [onPart_powered _ h.1.1, messageStep_answers fs h hm]
  simp only [ho, hs]

/-- A frame whose owner's part has its notices in step. -/
theorem onPart_gives {s : State} {ln : Line} {m : MsgName} {fs : List Field} {r : Result} {out : List RField} {q : Part}
    (h : Answers s.part ln m) (hm : m ≠ .stat ∧ m ≠ .last ∧ m ≠ .lrst ∧ m ≠ .rset)
    (ho : ownerOf m ln fs (s.part.heard ln) = { result := r, fields := out, part := q })
    (hq : (q.line.get ln).muted = false) (hn : q.Noticed) :
    onPart (messageStep (.known m) (ownFrame ln) fs) s = .next { s with part := q.answered ln m r out } := by
  rw [onPart_answers h hm ho hq, notices_fixed (hn.answered ln m r out)]

/-- STAT and LAST, and a taken LRST: the answer leaves no record and no flag (R183, R187, R190). -/
theorem onPart_told {s : State} {ln : Line} {m : MsgName} {fs : List Field} {out : List RField} {q : Part}
    (h : Answers s.part ln m) (hm : m = .stat ∨ m = .last ∨ m = .lrst)
    (ho : ownerOf m ln fs (s.part.heard ln) = { result := .ok, fields := out, part := q })
    (hq : (q.line.get ln).muted = false) (hn : q.Noticed) :
    onPart (messageStep (.known m) (ownFrame ln) fs) s = .next { s with part := q.replied ln m .ok out } := by
  have hn' : (q.replied ln m .ok out).Noticed := hn
  have hs : afterMessage (.known m) ln .addressed { result := .ok, fields := out, part := q } = q.replied ln m .ok out := by
    obtain rfl | rfl | rfl := hm <;> exact sendReply_addressed _ .ok out hq
  rw [onPart_powered _ h.1.1, messageStep_taken fs h, ho, hs, notices_fixed hn']

/-- A taken RSET: answered, then the restart begins (R175). -/
theorem onPart_restarts {s : State} {ln : Line} (h : Answers s.part ln .rset) :
    onPart (messageStep (.known .rset) (ownFrame ln) []) s =
      .next { s with part := notices (beginRestart ((s.part.heard ln).answered ln .rset .ok [])) } := by
  have hq : (((s.part.heard ln).flagged ln .rset .ok).line.get ln).muted = false := by
    have := h.2.2.2
    cases ln <;> exact this
  rw [onPart_powered _ h.1.1, messageStep_taken [] h]
  show Host.Outcome.next { s with part := notices (beginRestart (sendReply (.known .rset) ln .addressed .ok []
    ((s.part.heard ln).flagged ln .rset .ok))) } = _
  rw [sendReply_addressed .rset .ok [] hq]
  rfl

end Sys2Proof.Machine
end

