-- ==== Sys2Proof/Laws/PerInstr.lean ====
section
/-! SUPPORT. One lemma per command about its frame as text: a command that the table's row describes and that is a message
of the index is a host frame short enough for a line to take (R181). -/

namespace Sys2Proof.Laws

open Sys2Proof.Machine Sys2Proof.WellFormed

/-- A command that is well formed and a message of the index is written in at most 120 characters before its CR (R181). -/
def Frame.Statement (c : Instr) : Prop :=
  ∀ (address : BitVec 5) (m : MsgName) (a : Arrival) (fs : List Field),
    frameOf c = some (.known m, a, fs) → c.wellFormed = true → (hostFrame address m fs).length ≤ 120

/-- A name of the index has four letters. -/
theorem name_length (m : MsgName) : (octets (MsgName.word m)).length = 4 := by cases m <;> rfl

/-- A field is written in as many characters as `fieldLength` says. -/
theorem fieldOctets_length (f : Field) : (fieldOctets f).length = fieldLength f := by
  cases f <;> simp [fieldOctets, fieldLength, octets, String.length_toList]

/-- The fields of a frame are written in one character more each. -/
theorem fields_length (fs : List Field) :
    (fs.flatMap fun f => octets "," ++ fieldOctets f).length = (fs.map fun f => 1 + fieldLength f).sum := by
  induction fs with
  | nil => rfl
  | cons f fs ih =>
    have h : (octets ",").length = 1 := rfl
    simp only [List.flatMap_cons, List.length_append, ih, List.map_cons, List.sum_cons, fieldOctets_length, h]

/-- A host frame is as long as `frameLength` says. -/
theorem hostFrame_length (address : BitVec 5) (m : MsgName) (fs : List Field) :
    (hostFrame address m fs).length = frameLength fs := by
  simp only [hostFrame, frameBody, List.length_append, name_length, fields_length, addressDigits, hex2, frameLength,
    List.length_cons, List.length_nil]
  omega

/-- Fields that fit their frame make a frame that fits its line. -/
theorem hostFrame_fits {fs : List Field} (h : fieldsOk fs = true) (address : BitVec 5) (m : MsgName) :
    (hostFrame address m fs).length ≤ 120 := by
  rw [hostFrame_length]
  exact of_decide_eq_true (Bool.and_eq_true_iff.1 h).2

/-- A message whose row asks for fields that fit. -/
theorem Frame.of_fields {c : Instr} {a : Arrival} {m : MsgName} {fs : List Field}
    (hf : frameOf c = some (.known m, a, fs)) (hw : c.wellFormed = true → fieldsOk fs = true) : Frame.Statement c := by
  intro address k b gs h w
  rw [hf] at h
  cases h
  exact hostFrame_fits (hw w) address _

/-- A command that is no message of the index. -/
theorem Frame.of_none {c : Instr} (h : ∀ m a fs, frameOf c ≠ some (.known m, a, fs)) : Frame.Statement c :=
  fun _ m a fs hf => absurd hf (h m a fs)

theorem Frame.powerOn (straps : BitVec 5) : Frame.Statement (.powerOn straps) :=
  Frame.of_none fun _ _ _ h => nomatch h

theorem Frame.powerLoss : Frame.Statement .powerLoss := Frame.of_none fun _ _ _ h => nomatch h

theorem Frame.storeLoadEnd : Frame.Statement .storeLoadEnd := Frame.of_none fun _ _ _ h => nomatch h

theorem Frame.encoderWaitExpiry : Frame.Statement .encoderWaitExpiry := Frame.of_none fun _ _ _ h => nomatch h

theorem Frame.storeWriteEnd : Frame.Statement .storeWriteEnd := Frame.of_none fun _ _ _ h => nomatch h

theorem Frame.trimFold : Frame.Statement .trimFold := Frame.of_none fun _ _ _ h => nomatch h

theorem Frame.demandInterval (rawAz rawEl : Int) : Frame.Statement (.demandInterval rawAz rawEl) :=
  Frame.of_none fun _ _ _ h => nomatch h

theorem Frame.settleTimeout : Frame.Statement .settleTimeout := Frame.of_none fun _ _ _ h => nomatch h

theorem Frame.followingTrip : Frame.Statement .followingTrip := Frame.of_none fun _ _ _ h => nomatch h

theorem Frame.unparkWaitExpiry : Frame.Statement .unparkWaitExpiry := Frame.of_none fun _ _ _ h => nomatch h

theorem Frame.indexMark (axis : Axis) (raw : Int) : Frame.Statement (.indexMark axis raw) :=
  Frame.of_none fun _ _ _ h => nomatch h

theorem Frame.inputRecognition (input : InputName) (level : Level) : Frame.Statement (.inputRecognition input level) :=
  Frame.of_none fun _ _ _ h => nomatch h

theorem Frame.windHoldEnd : Frame.Statement .windHoldEnd := Frame.of_none fun _ _ _ h => nomatch h

theorem Frame.domeTimeout : Frame.Statement .domeTimeout := Frame.of_none fun _ _ _ h => nomatch h

theorem Frame.dwellComplete : Frame.Statement .dwellComplete := Frame.of_none fun _ _ _ h => nomatch h

theorem Frame.giveUp : Frame.Statement .giveUp := Frame.of_none fun _ _ _ h => nomatch h

theorem Frame.startInstant : Frame.Statement .startInstant := Frame.of_none fun _ _ _ h => nomatch h

theorem Frame.planEntryDone : Frame.Statement .planEntryDone := Frame.of_none fun _ _ _ h => nomatch h

theorem Frame.restartReinit : Frame.Statement .restartReinit := Frame.of_none fun _ _ _ h => nomatch h

theorem Frame.replyComplete (line : Line) : Frame.Statement (.replyComplete line) :=
  Frame.of_none fun _ _ _ h => nomatch h

theorem Frame.frameGapTimeout (line : Line) : Frame.Statement (.frameGapTimeout line) :=
  Frame.of_none fun _ _ _ h => nomatch h

theorem Frame.frameRejected (line : Line) : Frame.Statement (.frameRejected line) :=
  Frame.of_none fun _ _ _ h => nomatch h

theorem Frame.frameOtherAddress (line : Line) (address : BitVec 5) : Frame.Statement (.frameOtherAddress line address) :=
  Frame.of_none fun _ _ _ h => nomatch h

theorem Frame.messageUnknown (arr : Arrival) (letters : String) (fs : List Field) : Frame.Statement (.messageUnknown arr letters fs) :=
  Frame.of_none fun _ _ _ h => nomatch h

theorem Frame.time (arr : Arrival) (fs : List Field) : Frame.Statement (.time arr fs) := Frame.of_fields rfl id

theorem Frame.trim (arr : Arrival) (fs : List Field) : Frame.Statement (.trim arr fs) := Frame.of_fields rfl id

theorem Frame.clkq (arr : Arrival) (fs : List Field) : Frame.Statement (.clkq arr fs) := Frame.of_fields rfl id

theorem Frame.site (arr : Arrival) (fs : List Field) : Frame.Statement (.site arr fs) := Frame.of_fields rfl id

theorem Frame.mtrm (arr : Arrival) (fs : List Field) : Frame.Statement (.mtrm arr fs) := Frame.of_fields rfl id

theorem Frame.mact (arr : Arrival) (fs : List Field) : Frame.Statement (.mact arr fs) := Frame.of_fields rfl id

theorem Frame.mqry (arr : Arrival) (fs : List Field) : Frame.Statement (.mqry arr fs) := Frame.of_fields rfl id

theorem Frame.goto (arr : Arrival) (fs : List Field) : Frame.Statement (.goto arr fs) := Frame.of_fields rfl id

theorem Frame.stop (arr : Arrival) (fs : List Field) : Frame.Statement (.stop arr fs) := Frame.of_fields rfl id

theorem Frame.offs (arr : Arrival) (fs : List Field) : Frame.Statement (.offs arr fs) := Frame.of_fields rfl id

theorem Frame.axcf (arr : Arrival) (fs : List Field) : Frame.Statement (.axcf arr fs) := Frame.of_fields rfl id

theorem Frame.posq (arr : Arrival) (fs : List Field) : Frame.Statement (.posq arr fs) := Frame.of_fields rfl id

theorem Frame.maskRead (arr : Arrival) (fs : List Field) : Frame.Statement (.maskRead arr fs) :=
  Frame.of_fields rfl fun w => (Bool.and_eq_true_iff.1 (Bool.and_eq_true_iff.1 w).1).1

theorem Frame.maskWrite (arr : Arrival) (fs : List Field) : Frame.Statement (.maskWrite arr fs) :=
  Frame.of_fields rfl fun w => (Bool.and_eq_true_iff.1 w).1

theorem Frame.maskAll (arr : Arrival) (fs : List Field) : Frame.Statement (.maskAll arr fs) :=
  Frame.of_fields rfl fun w => (Bool.and_eq_true_iff.1 w).1

theorem Frame.zoneRead (arr : Arrival) (fs : List Field) : Frame.Statement (.zoneRead arr fs) :=
  Frame.of_fields rfl fun w => (Bool.and_eq_true_iff.1 (Bool.and_eq_true_iff.1 w).1).1

theorem Frame.zoneEnable (arr : Arrival) (fs : List Field) : Frame.Statement (.zoneEnable arr fs) :=
  Frame.of_fields rfl fun w => (Bool.and_eq_true_iff.1 w).1

theorem Frame.zoneBounds (arr : Arrival) (fs : List Field) : Frame.Statement (.zoneBounds arr fs) :=
  Frame.of_fields rfl fun w => (Bool.and_eq_true_iff.1 w).1

theorem Frame.limq (arr : Arrival) (fs : List Field) : Frame.Statement (.limq arr fs) := Frame.of_fields rfl id

theorem Frame.qadd (arr : Arrival) (fs : List Field) : Frame.Statement (.qadd arr fs) := Frame.of_fields rfl id

theorem Frame.qdelEntry (arr : Arrival) (fs : List Field) : Frame.Statement (.qdelEntry arr fs) :=
  Frame.of_fields rfl fun w => (Bool.and_eq_true_iff.1 (Bool.and_eq_true_iff.1 w).1).1

theorem Frame.qdelGroup (arr : Arrival) (fs : List Field) : Frame.Statement (.qdelGroup arr fs) :=
  Frame.of_fields rfl fun w => (Bool.and_eq_true_iff.1 w).1

theorem Frame.qdelAll (arr : Arrival) (fs : List Field) : Frame.Statement (.qdelAll arr fs) :=
  Frame.of_fields rfl fun w => (Bool.and_eq_true_iff.1 w).1

theorem Frame.qsub (arr : Arrival) (fs : List Field) : Frame.Statement (.qsub arr fs) := Frame.of_fields rfl id

theorem Frame.qlst (arr : Arrival) (fs : List Field) : Frame.Statement (.qlst arr fs) := Frame.of_fields rfl id

theorem Frame.trapRead (arr : Arrival) (fs : List Field) : Frame.Statement (.trapRead arr fs) :=
  Frame.of_fields rfl fun w => (Bool.and_eq_true_iff.1 (Bool.and_eq_true_iff.1 (Bool.and_eq_true_iff.1 (Bool.and_eq_true_iff.1 w).1).1).1).1

theorem Frame.trapSet (arr : Arrival) (fs : List Field) : Frame.Statement (.trapSet arr fs) :=
  Frame.of_fields rfl fun w => (Bool.and_eq_true_iff.1 w).1

theorem Frame.trapOn (arr : Arrival) (fs : List Field) : Frame.Statement (.trapOn arr fs) :=
  Frame.of_fields rfl fun w => (Bool.and_eq_true_iff.1 w).1

theorem Frame.trapOff (arr : Arrival) (fs : List Field) : Frame.Statement (.trapOff arr fs) :=
  Frame.of_fields rfl fun w => (Bool.and_eq_true_iff.1 w).1

theorem Frame.trapClear (arr : Arrival) (fs : List Field) : Frame.Statement (.trapClear arr fs) :=
  Frame.of_fields rfl fun w => (Bool.and_eq_true_iff.1 w).1

theorem Frame.qrun (arr : Arrival) (fs : List Field) : Frame.Statement (.qrun arr fs) := Frame.of_fields rfl id

theorem Frame.qhld (arr : Arrival) (fs : List Field) : Frame.Statement (.qhld arr fs) := Frame.of_fields rfl id

theorem Frame.qres (arr : Arrival) (fs : List Field) : Frame.Statement (.qres arr fs) := Frame.of_fields rfl id

theorem Frame.qskp (arr : Arrival) (fs : List Field) : Frame.Statement (.qskp arr fs) := Frame.of_fields rfl id

theorem Frame.plan (arr : Arrival) (fs : List Field) : Frame.Statement (.plan arr fs) := Frame.of_fields rfl id

theorem Frame.guidRead (arr : Arrival) (fs : List Field) : Frame.Statement (.guidRead arr fs) :=
  Frame.of_fields rfl fun w => (Bool.and_eq_true_iff.1 w).1

theorem Frame.guidCorrection (arr : Arrival) (fs : List Field) : Frame.Statement (.guidCorrection arr fs) :=
  Frame.of_fields rfl fun w => (Bool.and_eq_true_iff.1 w).1

theorem Frame.gcfg (arr : Arrival) (fs : List Field) : Frame.Statement (.gcfg arr fs) := Frame.of_fields rfl id

theorem Frame.incf (arr : Arrival) (fs : List Field) : Frame.Statement (.incf arr fs) := Frame.of_fields rfl id

theorem Frame.inpq (arr : Arrival) (fs : List Field) : Frame.Statement (.inpq arr fs) := Frame.of_fields rfl id

theorem Frame.back (arr : Arrival) (fs : List Field) : Frame.Statement (.back arr fs) := Frame.of_fields rfl id

theorem Frame.stow (arr : Arrival) (fs : List Field) : Frame.Statement (.stow arr fs) := Frame.of_fields rfl id

theorem Frame.wcfg (arr : Arrival) (fs : List Field) : Frame.Statement (.wcfg arr fs) := Frame.of_fields rfl id

theorem Frame.frec (arr : Arrival) (fs : List Field) : Frame.Statement (.frec arr fs) := Frame.of_fields rfl id

theorem Frame.fack (arr : Arrival) (fs : List Field) : Frame.Statement (.fack arr fs) := Frame.of_fields rfl id

theorem Frame.alrtRead (arr : Arrival) (fs : List Field) : Frame.Statement (.alrtRead arr fs) :=
  Frame.of_fields rfl fun w => (Bool.and_eq_true_iff.1 (Bool.and_eq_true_iff.1 w).1).1

theorem Frame.alrtMask (arr : Arrival) (fs : List Field) : Frame.Statement (.alrtMask arr fs) :=
  Frame.of_fields rfl fun w => (Bool.and_eq_true_iff.1 w).1

theorem Frame.alrtUnmask (arr : Arrival) (fs : List Field) : Frame.Statement (.alrtUnmask arr fs) :=
  Frame.of_fields rfl fun w => (Bool.and_eq_true_iff.1 w).1

theorem Frame.acka (arr : Arrival) (fs : List Field) : Frame.Statement (.acka arr fs) := Frame.of_fields rfl id

theorem Frame.rlog (arr : Arrival) (fs : List Field) : Frame.Statement (.rlog arr fs) := Frame.of_fields rfl id

theorem Frame.park (arr : Arrival) (fs : List Field) : Frame.Statement (.park arr fs) := Frame.of_fields rfl id

theorem Frame.unpk (arr : Arrival) (fs : List Field) : Frame.Statement (.unpk arr fs) := Frame.of_fields rfl id

theorem Frame.dorm (arr : Arrival) (fs : List Field) : Frame.Statement (.dorm arr fs) := Frame.of_fields rfl id

theorem Frame.wake (arr : Arrival) (fs : List Field) : Frame.Statement (.wake arr fs) := Frame.of_fields rfl id

theorem Frame.refr (arr : Arrival) (fs : List Field) : Frame.Statement (.refr arr fs) := Frame.of_fields rfl id

theorem Frame.rset (arr : Arrival) (fs : List Field) : Frame.Statement (.rset arr fs) := Frame.of_fields rfl id

theorem Frame.stor (arr : Arrival) (fs : List Field) : Frame.Statement (.stor arr fs) :=
  Frame.of_fields rfl fun w => (Bool.and_eq_true_iff.1 (Bool.and_eq_true_iff.1 w).1).1

theorem Frame.storWait (arr : Arrival) (fs : List Field) : Frame.Statement (.storWait arr fs) :=
  Frame.of_fields rfl fun w => (Bool.and_eq_true_iff.1 w).1

theorem Frame.storRead (arr : Arrival) (fs : List Field) : Frame.Statement (.storRead arr fs) :=
  Frame.of_fields rfl fun w => (Bool.and_eq_true_iff.1 w).1

theorem Frame.stat (arr : Arrival) (fs : List Field) : Frame.Statement (.stat arr fs) := Frame.of_fields rfl id

theorem Frame.last (arr : Arrival) (fs : List Field) : Frame.Statement (.last arr fs) := Frame.of_fields rfl id

theorem Frame.mute (arr : Arrival) (fs : List Field) : Frame.Statement (.mute arr fs) := Frame.of_fields rfl id

theorem Frame.unmt (arr : Arrival) (fs : List Field) : Frame.Statement (.unmt arr fs) := Frame.of_fields rfl id

theorem Frame.lockRead (arr : Arrival) (fs : List Field) : Frame.Statement (.lockRead arr fs) :=
  Frame.of_fields rfl fun w => (Bool.and_eq_true_iff.1 w).1

theorem Frame.lockWrite (arr : Arrival) (fs : List Field) : Frame.Statement (.lockWrite arr fs) :=
  Frame.of_fields rfl fun w => (Bool.and_eq_true_iff.1 w).1

theorem Frame.lrst (arr : Arrival) (fs : List Field) : Frame.Statement (.lrst arr fs) := Frame.of_fields rfl id

theorem Frame.characterReceived (line : Line) (ch : Octet) : Frame.Statement (.characterReceived line ch) :=
  Frame.of_none fun _ _ _ h => nomatch h

end Sys2Proof.Laws
end

