-- ==== Sys2Proof/Laws/StillLaws.lean ====
section
/-! SUPPORT. What comes to nothing: operations that leave a part as it is when nothing waits for them, and notices that find
nothing changed. -/

namespace Sys2Proof.Machine

/-! ### The notices (R34, R111, R125) -/

/-- Outside TRACKING guiding is never allowed (R34). -/
theorem guidingCondition_off {p : Part} (h : p.engine.motion ≠ .tracking) : p.guidingCondition = false := by
  simp [Part.guidingCondition, h]

/-- Outside TRACKING dwell never counts (R111). -/
theorem dwellCounts_off {p : Part} (h : p.engine.motion ≠ .tracking) : p.dwellCounts = false := by
  simp [Part.dwellCounts, h]

/-- Outside OBSERVING dwell never counts (R111). -/
theorem dwellCounts_unobserved {p : Part} (h : p.runner.state ≠ .observing) : p.dwellCounts = false := by
  simp [Part.dwellCounts, h]

/-- A part whose engine is outside TRACKING before and after has its notices in step. -/
theorem Part.Noticed.still {p q : Part} (hp : p.Noticed) (h1 : p.engine.motion ≠ .tracking)
    (h2 : q.engine.motion ≠ .tracking) (ht : q.guide.told = p.guide.told) (ha : q.guide.allowed = p.guide.allowed)
    (hr : q.runner.ctx.countFrom = p.runner.ctx.countFrom) : q.Noticed := by
  obtain ⟨a, b, c⟩ := hp
  rw [guidingCondition_off h1] at a b
  rw [dwellCounts_off h1] at c
  refine ⟨?_, ?_, ?_⟩
  · rw [guidingCondition_off h2, ht, a]
  · rw [guidingCondition_off h2, ha, b, Bool.false_and, Bool.false_and]
  · rw [dwellCounts_off h2, hr, c]

/-- Dwell that does not count is not being counted (R111). -/
theorem Part.Noticed.uncounted {p : Part} (h : p.Noticed) (hd : p.dwellCounts = false) :
    p.runner.ctx.countFrom = none := by
  have := h.2.2
  rw [hd] at this
  simpa using this

/-- The notices of a part in which no dwell counts, and none was being counted, leave the runner. -/
theorem notices_runner {p : Part} (hd : p.dwellCounts = false) (hc : p.runner.ctx.countFrom = none) :
    (notices p).runner = p.runner := by
  have h1 : (noticeGuide p).dwellCounts = false := by
    rw [← hd]
    simp [Part.dwellCounts, Part.onEntry, Part.attached, Part.domeOk]
  have h2 : noticeDwell (noticeGuide p) = noticeGuide p := noticeDwell_fixed (by simp [h1, hc])
  rw [notices, h2, noticeGuide_runner]

/-- The notices leave the offsets of the Guide Unit (R125). -/
@[simp] theorem notices_acc (p : Part) :
    (notices p).guide.accA = p.guide.accA ∧ (notices p).guide.accE = p.guide.accE := by
  simp only [notices, noticeDwell_guide]
  unfold noticeGuide
  dsimp only
  split
  · exact ⟨rfl, rfl⟩
  · split <;> exact ⟨rfl, rfl⟩

/-- After the notices guiding is allowed exactly under its condition (R34, R125). -/
theorem notices_allowed (p : Part) : (notices p).guide.allowed = (p.guidingCondition && p.guide.enable) := by
  simp only [notices, noticeDwell_guide]
  exact (noticeGuide_agrees p).2.1

/-! ### Operations with nothing to do -/

/-- A boundary without a pending activation (R24). -/
theorem boundary_id {p : Part} (h : p.model.pending = false) : boundary p = p := by simp [boundary, h]

/-- Leaving a passage that is not there (R66). -/
theorem leavePassage_id {p : Part} (h : p.engine.passage = none) : leavePassage p = p := by
  have he : { p.engine with passage := none } = p.engine := by rw [← h]
  simp only [leavePassage, bankPassage, h, he]

/-- Ending a target that is not there (R45). -/
theorem endGoto_none {p : Part} (h : p.engine.target = none) (o : Ending) : endGoto o p = p := by simp [endGoto, h]

/-- Leaving for a slew without a target and without a passage (R31). -/
theorem leaveForSlew_id {p : Part} (n : Nat) (hp : p.engine.passage = none) (ht : p.engine.target = none) :
    leaveForSlew n p = p := by
  simp only [leaveForSlew, leavePassage_id hp, ht]

/-- A runner that is IDLE has nothing a clock could bring (R106, R113). -/
theorem clockChanged_idle {p : Part} (h : p.runner.state = .idle) : clockChanged p = p := by
  simp [clockChanged, startInstant, giveUp, Part.giveUpDue, Part.startDue, h, RunState.working]

/-- A runner that does not run hears nothing of a STOP (R117). -/
theorem runnerStop_id {p : Part} (h : p.runner.state.running = false) : runnerStop p = p := by simp [runnerStop, h]

/-- A runner that does not run hears nothing of a PARK (R117). -/
theorem runnerPark_id {p : Part} (h : p.runner.state.running = false) : runnerPark p = p := by simp [runnerPark, h]

/-- A runner that does not run hears nothing of a GOTO (R116). -/
theorem runnerGoto_id {p : Part} (h : p.runner.state.running = false) : runnerGoto p = p := by simp [runnerGoto, h]

/-- A runner that does not run hears nothing of a wind hold (R119). -/
theorem runnerWind_id {p : Part} (h : p.runner.state.running = false) : runnerWind p = p := by simp [runnerWind, h]

/-- What a report of the Night List comes to: the head is taken up, or nothing (R102). -/
theorem noticeHead_eq (p : Part) : noticeHead p = if p.findsHead then takeUp p else p := by
  cases h : p.runner.state <;> simp only [noticeHead, Part.findsHead, h]
  case empty => cases he : p.list.entries <;> simp [Part.head, he]
  all_goals simp

/-- A runner that works an entry finds no head to take up (R102). -/
theorem findsHead_of_working {p : Part} (h : p.runner.state.working = true) : p.findsHead = false := by
  cases hs : p.runner.state <;> simp_all [RunState.working, Part.findsHead]

/-- Nor does one that is IDLE or HELD (R102). -/
theorem findsHead_of_atRest {p : Part} (h : p.runner.state.running = false) : p.findsHead = false := by
  cases hs : p.runner.state <;> simp_all [RunState.running, Part.findsHead]

/-- A runner that works nothing and waits for nothing hears nothing of a new head (R102). -/
theorem noticeHead_idle {p : Part} (h : p.runner.state = .idle) : noticeHead p = p := by simp [noticeHead, h]

/-- A runner without an absence in time (R110). -/
theorem domeCheck_none {p : Part} (h : p.runner.ctx.domeFrom = none) : domeCheck p = p := by
  simp [domeCheck, Part.domeExpired, h]

/-- A wind timer that has not run out (R152). -/
theorem windCheck_id {p : Part} (h : p.windDue = false) : windCheck p = p := by simp [windCheck, h]

/-! ### The Planner's request (R120) -/

/-- A pass request leaves the notices in step. -/
theorem Part.Noticed.requested {p : Part} (h : p.Noticed) : (requestPass p).Noticed := by
  unfold requestPass
  split <;> exact h

/-- A pass request leaves the mutes. -/
@[simp] theorem requestPass_muted (p : Part) (ln : Line) :
    ((requestPass p).line.get ln).muted = (p.line.get ln).muted := by rw [requestPass_line]

/-! ### Replies (R184) -/

/-- An answered message's reply is in progress on its line. -/
theorem replies_answered (p : Part) (ln : Line) (m : MsgName) (r : Result) (out : List RField) :
    Replies (notices (p.answered ln m r out)) ln m r out := by
  refine ⟨{ address := p.line.address, name := .known m, result := r, summary := summary (p.flagged ln m r) ln,
            fields := out, since := p.now }, ?_, ?_, rfl, rfl, rfl, ?_⟩
  · rw [notices_line]
    cases ln <;> rfl
  · rw [notices_line]
    cases ln <;> rfl
  · simp [Part.now]

end Sys2Proof.Machine
end

