-- ==== Sys2Proof/Laws/SkyLaws.lean ====
section
/-! SUPPORT. What the sky, the wrap choice and the start check look at: the clock, the site, the active terms, the last
demanded azimuth and the axis configuration, and the zone test and the mask at the limit tables. Parts that agree on these
are evaluated alike. -/

namespace Sys2Proof.Machine

/-! ### The square root (R32, R105) -/

/-- With fuel for its size, the square root is the greatest number whose square is no more. -/
theorem sqrtFuel_spec (k n : Nat) (h : n < 4 ^ k) : sqrtFuel k n * sqrtFuel k n ≤ n ∧
    n < (sqrtFuel k n + 1) * (sqrtFuel k n + 1) := by
  induction k generalizing n with
  | zero => simp [sqrtFuel] at *; omega
  | succ k ih =>
    obtain ⟨h1, h2⟩ := ih (n / 4) (by rw [Nat.div_lt_iff_lt_mul (by decide)]; omega)
    have h3 : n / 4 + 1 ≤ (sqrtFuel k (n / 4) + 1) * (sqrtFuel k (n / 4) + 1) := h2
    simp only [sqrtFuel]
    generalize sqrtFuel k (n / 4) = r at h1 h3
    have hlow : 2 * r * (2 * r) ≤ n := by
      have : 2 * r * (2 * r) = 4 * (r * r) := Nat.mul_mul_mul_comm 2 r 2 r
      omega
    have hhigh : n < (2 * r + 2) * (2 * r + 2) := by
      have : (2 * r + 2) * (2 * r + 2) = 4 * ((r + 1) * (r + 1)) := Nat.mul_mul_mul_comm 2 (r + 1) 2 (r + 1)
      omega
    split
    · exact ⟨‹_›, hhigh⟩
    · exact ⟨hlow, by omega⟩

/-- The square root rounded down. -/
theorem floorSqrt_spec (n : Nat) : floorSqrt n * floorSqrt n ≤ n ∧ n < (floorSqrt n + 1) * (floorSqrt n + 1) := by
  refine sqrtFuel_spec _ n (Nat.lt_of_lt_of_le (Nat.lt_log2_self (n := n)) ?_)
  rw [show (4 : Nat) = 2 ^ 2 from rfl, ← Nat.pow_mul]
  exact Nat.pow_le_pow_right (by decide) (by omega)

/-- A number whose square is no more than `n` is no more than the root of `n`. -/
theorem le_floorSqrt {m n : Nat} (h : m * m ≤ n) : m ≤ floorSqrt n := by
  have h2 := (floorSqrt_spec n).2
  refine Nat.le_of_not_lt fun hc => ?_
  have := Nat.mul_le_mul (Nat.succ_le_of_lt hc) (Nat.succ_le_of_lt hc)
  simp only [Nat.succ_eq_add_one] at this
  omega

/-- Two parts that agree on everything an evaluation with zero offsets looks at (R11 to R20, R55 to R60, R105). -/
structure SameSky (p q : Part) : Prop where
  clock : q.clock = p.clock
  site : q.site = p.site
  active : q.model.active = p.model.active
  lastAz : q.lastAz = p.lastAz
  cfg : q.engine.cfg = p.engine.cfg

namespace SameSky

variable {p q : Part}

/-- The reading both evaluate at. -/
theorem siteNow_eq (h : SameSky p q) : q.siteNow = p.siteNow := by simp only [Part.siteNow, h.clock]

/-- The stamp both write. -/
theorem stamp_eq (h : SameSky p q) : q.stamp = p.stamp := by simp only [Part.stamp, Part.now, h.clock]

/-- The times both have reached. -/
theorem reachedTime_eq (h : SameSky p q) : q.reachedTime = p.reachedTime := by
  funext t
  simp only [Part.reachedTime, h.clock]

/-- One place at every instant. -/
theorem placeAt_eq (h : SameSky p q) : placeAt q = placeAt p := by
  funext c t
  cases c <;> simp only [placeAt, h.clock, h.site, h.lastAz]

/-- One evaluation at every instant. -/
theorem aimAt_eq (h : SameSky p q) : aimAt q = aimAt p := by
  funext c t
  cases c <;> simp only [aimAt, aimWith, h.placeAt_eq, h.active]

/-- The same samples. -/
theorem samplesOf_eq (h : SameSky p q) : samplesOf q = samplesOf p := by
  funext c ts len
  cases c <;> simp only [samplesOf, h.aimAt_eq]

/-- The same cone. -/
theorem inCone_eq (h : SameSky p q) : inCone q = inCone p := by
  funext c a
  unfold inCone
  split <;> simp only [h.cfg]

/-- The same direction through the keyhole. -/
theorem directionAt_eq (h : SameSky p q) : directionAt q = directionAt p := by
  funext c t
  simp only [directionAt, h.placeAt_eq]

/-- The same placed positions. -/
theorem pathFrom_eq (h : SameSky p q) : pathFrom q = pathFrom p := by
  have hn : placeNext q = placeNext p := by
    funext c prev gap s
    simp only [placeNext, h.directionAt_eq, h.cfg]
  have ha : ∀ c l prev gap, pathAfter q c prev gap l = pathAfter p c prev gap l := by
    intro c l
    induction l with
    | nil => exact fun _ _ => rfl
    | cons s l ih => exact fun prev gap => by simp only [pathAfter, h.inCone_eq, hn, ih]
  funext c x l
  cases l with
  | nil => rfl
  | cons s l => simp only [pathFrom, ha]

/-- The same wrap choice. -/
theorem wrapChoice_eq (h : SameSky p q) : wrapChoice q = wrapChoice p := by
  funext c ts len pref near
  cases c <;> simp only [wrapChoice, h.samplesOf_eq, h.pathFrom_eq, h.cfg]

/-- The same estimate. -/
theorem estimateFrom_eq (h : SameSky p q) : estimateFrom q = estimateFrom p := by
  have hd : destinationAt q = destinationAt p := by
    funext c t dwell pref src
    have hc : choiceAz q = choiceAz p := by
      funext a r
      cases r <;> simp only [choiceAz, h.cfg]
    simp only [destinationAt, h.aimAt_eq, h.wrapChoice_eq, hc]
  funext c dwell pref src t
  simp only [estimateFrom, arrivalFrom, hd, h.cfg]

/-- The same altitude test, over one mask. -/
theorem standsAbove_eq (h : SameSky p q) (hl : q.limits = p.limits) : standsAbove q = standsAbove p := by
  have he : effectiveLower q = effectiveLower p := by
    funext m a
    cases m <;> simp only [effectiveLower, hl, h.cfg]
  funext m pl
  simp only [standsAbove, he]

/-- The same outcome of the tests of a start check, over one set of limits (R107). -/
theorem checkEntry_eq (h : SameSky p q) (hl : q.limits = p.limits) : checkEntry q = checkEntry p := by
  have hs : sampleStands q = sampleStands p := by
    funext e c s
    simp only [sampleStands, h.inCone_eq, h.standsAbove_eq hl]
  have hf : fittingAz q = fittingAz p := by
    funext e c ta near
    cases c <;> simp only [fittingAz, h.wrapChoice_eq, h.cfg]
  funext e c near ta
  simp only [checkEntry, h.samplesOf_eq, hs, hf, h.aimAt_eq, hl]

/-- The same wrap choice of the engine's own, from one demand (R57 to R60). -/
theorem engineChoice_eq (h : SameSky p q) (hd : q.engine.az.demand = p.engine.az.demand) :
    engineChoice q = engineChoice p := by
  funext g
  simp only [engineChoice, choiceSpan, h.siteNow_eq, h.wrapChoice_eq, hd]

/-- The same candidate for the engine, from one demand (R57 to R60). -/
theorem engineCandidate_eq (h : SameSky p q) (hd : q.engine.az.demand = p.engine.az.demand) :
    engineCandidate q = engineCandidate p := by
  funext g
  simp only [engineCandidate, h.engineChoice_eq hd, choiceSpan, h.siteNow_eq, h.aimAt_eq, h.cfg]

end SameSky

/-- Hearing a frame changes nothing an evaluation looks at. -/
theorem sameSky_heard (p : Part) (ln : Line) : SameSky p (p.heard ln) := ⟨rfl, rfl, rfl, rfl, rfl⟩

end Sys2Proof.Machine
end

