-- ==== Sys2Proof/Tests/Slice0.lean ====
section
/-! SUPPORT. Tests of the model's own making: what the WellFormed checks refuse, worked examples of the manual, and for every
statement with hypotheses a state and operands that meet them. -/

namespace Sys2Proof.Tests

open Sys2Proof.Machine

/-! ### WellFormed: each check refuses an ill-formed command -/

/-- LINE A, the part's own address. -/
def own : Arrival := { line := .a, cast := .addressed }

theorem test_wf_number_too_long : Instr.wellFormed (.trim own [.num 1000000000000000]) = false := by decide
theorem test_wf_word_lower_case : Instr.wellFormed (.mqry own [.word "staged"]) = false := by decide
theorem test_wf_word_empty : Instr.wellFormed (.mqry own [.word ""]) = false := by decide
theorem test_wf_frame_too_long :
    Instr.wellFormed (.mtrm own (List.replicate 15 (.num 1000000))) = false := by decide
theorem test_wf_known_name_unknown : Instr.wellFormed (.messageUnknown own "GOTO" []) = false := by decide
theorem test_wf_name_three_letters : Instr.wellFormed (.messageUnknown own "XYZ" []) = false := by decide
theorem test_wf_other_address_broadcast : Instr.wellFormed (.frameOtherAddress .a 31) = false := by decide
theorem test_wf_mask_read_two_fields : Instr.wellFormed (.maskRead own [.num 1, .num 2]) = false := by decide
theorem test_wf_mask_write_all : Instr.wellFormed (.maskWrite own [.word "ALL", .num 2]) = false := by decide
theorem test_wf_mask_all_index : Instr.wellFormed (.maskAll own [.num 1, .num 2]) = false := by decide
theorem test_wf_zone_read_bounds : Instr.wellFormed (.zoneRead own [.num 1, .num 2, .num 3, .num 4, .num 5]) = false := by
  decide
theorem test_wf_zone_enable_alone : Instr.wellFormed (.zoneEnable own [.num 1]) = false := by decide
theorem test_wf_zone_bounds_short : Instr.wellFormed (.zoneBounds own [.num 1, .word "ON"]) = false := by decide
theorem test_wf_delete_entry_all : Instr.wellFormed (.qdelEntry own [.word "ALL"]) = false := by decide
theorem test_wf_delete_group_entry : Instr.wellFormed (.qdelGroup own [.word "ENTRY", .num 1]) = false := by decide
theorem test_wf_delete_all_group : Instr.wellFormed (.qdelAll own [.word "GROUP", .num 1]) = false := by decide
theorem test_wf_trap_read_word : Instr.wellFormed (.trapRead own [.num 1, .word "ON"]) = false := by decide
theorem test_wf_trap_set_word : Instr.wellFormed (.trapSet own [.num 1, .word "ON"]) = false := by decide
theorem test_wf_trap_on_off : Instr.wellFormed (.trapOn own [.num 1, .word "OFF"]) = false := by decide
theorem test_wf_trap_off_on : Instr.wellFormed (.trapOff own [.num 1, .word "ON"]) = false := by decide
theorem test_wf_trap_clear_on : Instr.wellFormed (.trapClear own [.num 1, .word "ON"]) = false := by decide
theorem test_wf_guide_read_two : Instr.wellFormed (.guidRead own [.num 1, .num 2]) = false := by decide
theorem test_wf_guide_correction_one : Instr.wellFormed (.guidCorrection own [.num 1]) = false := by decide
theorem test_wf_alert_read_mask : Instr.wellFormed (.alrtRead own [.word "MASK"]) = false := by decide
theorem test_wf_alert_mask_unmask : Instr.wellFormed (.alrtMask own [.word "UNMASK"]) = false := by decide
theorem test_wf_alert_unmask_mask : Instr.wellFormed (.alrtUnmask own [.word "MASK"]) = false := by decide
theorem test_wf_store_wait : Instr.wellFormed (.stor own [.word "WAIT", .num 1]) = false := by decide
theorem test_wf_store_wait_read : Instr.wellFormed (.storWait own [.word "READ"]) = false := by decide
theorem test_wf_store_read_none : Instr.wellFormed (.storRead own []) = false := by decide
theorem test_wf_lock_read_three : Instr.wellFormed (.lockRead own [.word "A", .word "TIME", .word "ON"]) = false := by decide
theorem test_wf_lock_write_one : Instr.wellFormed (.lockWrite own [.word "A"]) = false := by decide
theorem test_wf_goto : Instr.wellFormed (.goto own [.word "AXIS", .num (-5), .num 7]) = true := by decide

/-! ### States the tests start from -/

/-- A part that has loaded its defaults and stands in READY at azimuth 0 and elevation 45 degrees. -/
def up : Part :=
  let p := Part.powerOn 5 false StoreImage.default
  let stands (x : AxisState) (d : Mas) : AxisState :=
    { x with referenced := true, demand := d, actual := some d, error := some 0, encoder := d }
  { p with
    power := { p.power with loaded := true, wait := none },
    engine := { p.engine with motion := .ready, az := stands p.engine.az 0, el := stands p.engine.el 162000000 } }

/-- A part as a state with no command waiting. -/
def st (p : Part) : State := { part := p, pending := [] }

/-- The part with another engine. -/
def withE (f : Engine → Engine) (p : Part) : Part := { p with engine := f p.engine }

/-- The part with another motion state. -/
def inMotion (m : Motion) : Part := withE (fun e => { e with motion := m }) up

/-- The part at a time-base reading. -/
def atBase (b : Ms) (p : Part) : Part := { p with clock := { p.clock with timeBase := b } }

/-- The part with the clock set at 1,000 s of site time, at time base 0. -/
def clocked (p : Part) : Part := { p with clock := { p.clock with isSet := true, anchorSite := 1000000, refTime := 1000000 } }

/-- LINE A hears and answers a message of a part whose line is as `up` has it. -/
theorem takes_up {p : Part} {m : MsgName} (h1 : p.line = up.line)
    (h2 : p.power.powered = true ∧ p.power.loaded = true ∧ p.power.restarting = false) (hn : p.Noticed) :
    Takes (st p) .a m := by
  have hl : (st p).part.line = up.line := h1
  refine ⟨⟨⟨h2.1, h2.2.1, h2.2.2, ?_⟩, ?_, ?_, ?_⟩, hn⟩ <;> rw [hl]
  · rfl
  · decide
  · rfl
  · rfl

/-- An ALTAZ assignment of the List Runner. -/
def asked (o : Origin) (n : Option Nat) : Assignment :=
  { origin := o, coords := .altaz 36000000 180000000, pref := .near, guide := false, dwell := none, estimate := none,
    minAlt := none, record := n }

/-- A target of an assignment. -/
def aimed (g : Assignment) : Target :=
  { given := g, destAz := 36000000, destEl := 180000000, side := .pos, arrived := false, reached := false,
    noRun := false }

/-- A list entry without options. -/
def entry (id : Nat) (b : Body) : Entry := { id := id, body := b, opts := Opts.none, plan := PlanRec.blank }

/-- A night list of some entries. -/
def listOf (es : List Entry) (p : Part) : Part := { p with list := { p.list with entries := es } }

/-- A runner in a state with a context. -/
def runs (s : RunState) (c : RunCtx) (p : Part) : Part := { p with runner := { p.runner with state := s, ctx := c } }

/-- An engine that tracks a target. -/
def tracks (t : Target) (p : Part) : Part := withE (fun e => { e with motion := .tracking, target := some t }) p

/-- The part under a wind hold whose timer has run since 0. -/
def holding (p : Part) : Part := { p with wind := { p.wind with hold := true, timer := some 0 } }

/-- A part whose restart is in its step 2. -/
def restarting (p : Part) : Part := { p with power := { p.power with restarting := true } }

/-- The part after a command. -/
def after (c : Instr) (p : Part) : Part :=
  match exec c (st p) with
  | .next s => s.part
  | .fault _ => p
  | .refused _ => p

/-! ### Witnesses: for each statement with hypotheses, a state and operands that meet them -/

theorem test_witness_EmptyQueueTicks :
    ((st up).pending = [] ∧ (st up).part.power.powered = true ∧ up.runner.state ≠ .empty ∧ dueSamples up ≠ [] ∧
     dueSamples (atBase 7 up) = [] ∧ (st { up with power := { up.power with powered := false } }).part.power.powered = false) ∧
    (let p := runs .empty { RunCtx.blank with goingOn := true } up
     p.power.powered = true ∧ p.runner.state = .empty ∧ p.runner.ctx.goingOn = true ∧ p.power.restarting = false ∧
     p.runner.holdAfter = false ∧ p.Noticed ∧ p.list.entries = [] ∧
     (let q := listOf [entry 1 .mark] { p with list := { p.list with slots := [{ id := some 1, on := true }] } }
      q.Noticed ∧ q.list.entries = [entry 1 .mark] ∧ q.list.trapped (entry 1 .mark).id = true)) :=
  ⟨by decide, by decide, by decide, by decide, by decide, by decide, ⟨rfl, rfl, rfl⟩, by decide, ⟨rfl, rfl, rfl⟩, by decide⟩

theorem test_witness_StoreLoadEnds :
    let p := State.reset.part
    p.power.powered = true ∧ p.power.loaded = false ∧ p.power.mark = false ∧ p.Noticed ∧
    (Part.powerOn 31 true StoreImage.default).power.mark = true ∧
    (Part.powerOn 31 true StoreImage.default).power.powered = true ∧
    (Part.powerOn 31 true StoreImage.default).power.loaded = false :=
  ⟨by decide, by decide, by decide, ⟨rfl, rfl, rfl⟩, by decide, by decide, by decide⟩

/-- A GOTO target of run record 1. -/
def ours : Target := aimed (asked .goto (some 1))

theorem test_witness_TimedEventsHappen :
    (let p := atBase 2000 State.reset.part
     p.power.powered = true ∧ p.Noticed ∧ p.engine.motion = .waking ∧ p.power.wait = some (0, 2000) ∧
     0 + 2000 ≤ p.clock.timeBase) ∧
    (let p := atBase 1000 (withE (fun e => { e with motion := .unparking, unparkAt := some 0 }) up)
     p.power.powered = true ∧ p.Noticed ∧ p.engine.unparkAt = some 0 ∧ 0 + 1000 ≤ p.clock.timeBase ∧
     p.power.restarting = false ∧ p.wind.hold = false ∧ p.engine.request = none ∧ p.model.pending = false ∧
     p.engine.target = none ∧ p.engine.passage = none ∧ (holding p).Noticed ∧
     (after .unparkWaitExpiry (holding p)).engine.motion = .stowing) ∧
    (let g : Assignment := asked (.list 1) (some 1)
     let q := atBase 1000 (withE (fun e => { e with motion := .unparking, unparkAt := some 0, request := some g }) up)
     let p := { q with log := { records := [RunRec.fresh 1 (.list 1) .altaz], next := 2 } }
     p.power.powered = true ∧ p.Noticed ∧ p.engine.motion = .unparking ∧ p.engine.unparkAt = some 0 ∧
     p.engine.request = some g ∧ p.wind.hold = false ∧ p.power.restarting = false ∧
     ((after .unparkWaitExpiry p).log.find 1).bind RunRec.started = some (.base 1000)) ∧
    (let p := atBase 3000 (withE (fun e => { e with motion := .settling, arrivedAt := some 0, target := some ours }) up)
     p.power.powered = true ∧ p.Noticed ∧ p.engine.arrivedAt = some 0 ∧
     ((0 : Nat) : Int) + max 0 p.engine.cfg.settle ≤ p.clock.timeBase ∧ ours.given.origin = .goto ∧
     ours.given.guide = false ∧ p.engine.passage = none ∧ p.runner.ctx.record = none) ∧
    (let t : Trim := { start := 0, delta := 500 }
     let p := atBase 10000 (clocked up)
     let q := { p with clock := { p.clock with trim := some t } }
     q.power.powered = true ∧ q.Noticed ∧ q.clock.trim = some t ∧ t.start + 10000 ≤ q.clock.timeBase) :=
  ⟨⟨by decide, ⟨rfl, rfl, rfl⟩, by decide, by decide, by decide⟩,
   ⟨by decide, ⟨rfl, rfl, rfl⟩, by decide, by decide, by decide, by decide, by decide, by decide, by decide, by decide,
    ⟨rfl, rfl, rfl⟩, by decide +kernel⟩,
   ⟨by decide, ⟨rfl, rfl, rfl⟩, by decide, by decide, by decide, by decide, by decide, by decide +kernel⟩,
   ⟨by decide, ⟨rfl, rfl, rfl⟩, by decide, by decide, by decide, by decide, by decide, by decide⟩,
   ⟨by decide, ⟨rfl, rfl, rfl⟩, by decide, by decide⟩⟩

/-- A part whose runner works list entry 1 of `b` as run record 1. -/
def works (m : Motion) (b : Body) (o : Opts) (r : RunState) : Part :=
  let g : Assignment := { asked (.list 1) (some 1) with dwell := some b.dwell, estimate := some 5000 }
  let e : Entry := { entry 1 b with opts := o }
  let p := listOf [e] (runs r { RunCtx.blank with id := some 1, record := some 1 } up)
  { p with
    list := { p.list with current := some 1 }
    runner := { p.runner with holdAfter := true }
    log := { records := [{ RunRec.fresh 1 (.list 1) .altaz with started := some (.base 0) }], next := 2 }
    engine := { p.engine with motion := m, target := some (aimed g), az := { p.engine.az with velocity := fx } } }

/-- An ALTAZ entry of the shortest dwell. -/
def brief : Body := .altaz 36000000 180000000 1000

/-- A part with one input changed. -/
def withInput (i : InputName) (f : Filter → Filter) (p : Part) : Part :=
  { p with inputs := p.inputs.set i (f (p.inputs.get i)) }

/-- An input recognised ACTIVE. -/
def raised (i : InputName) (p : Part) : Part := withInput i (fun f => { f with recognised := some true }) p

/-- A filter whose latest sample was ACTIVE. -/
def armed (f : Filter) : Filter := { f with enabled := true, last := some true, recognised := some false }

/-- A part whose worked entry's target has settled, DOME and the dome wait as given. -/
def settled (dome : Filter → Filter) (wait : Ms) : Part :=
  let p := atBase 3000 (withInput .dome dome (works .settling brief Opts.none .acquiring))
  { p with runner := { p.runner with domeWait := wait }, engine := { p.engine with arrivedAt := some 0 } }

theorem test_witness_TimedEventsHappen_observing :
    (∀ p ∈ [settled id 60000, settled armed 60000, settled armed 0], p.power.powered = true ∧ p.Noticed ∧
      p.engine.motion = .settling ∧ p.engine.arrivedAt = some 0 ∧
      ((0 : Nat) : Int) + max 0 p.engine.cfg.settle ≤ p.clock.timeBase ∧
      (p.engine.target.map fun t => (t.given.origin, t.given.record)) = some (.list 1, some 1) ∧
      p.runner.state = .acquiring ∧ p.runner.ctx.id = some 1 ∧ p.runner.ctx.record = some 1 ∧
      p.runner.ctx.domeFrom = none ∧ p.runner.ctx.observed = false ∧ p.power.restarting = false ∧
      p.engine.passage = none) ∧
    (settled id 60000).inputs.dome.enabled = false ∧ (settled armed 0).inputs.dome.enabled = true ∧
    (settled armed 0).inputs.dome.recognised = some false ∧ (settled armed 0).runner.domeWait = 0 ∧
    (after .settleTimeout (settled id 60000)).runner.state = .observing ∧
    (after .settleTimeout (settled armed 60000)).runner.ctx.domeFrom = some 3000 := by
  refine ⟨fun p h => ?_, by decide, by decide, by decide, by decide, by decide +kernel, by decide +kernel⟩
  repeat
    rcases List.mem_cons.1 h with rfl | h
    · exact ⟨by decide, ⟨rfl, rfl, rfl⟩, by decide +kernel⟩
  exact absurd h List.not_mem_nil

/-- One axis at a demand and a velocity, its encoder there. -/
def goes (d : Mas) (v : Int) (x : AxisState) : AxisState := { x with demand := d, encoder := d, velocity := v * fx }

theorem test_witness_RestingIntervals :
    let slipped := withE (fun e => { e with mismatch := true }) up
    (∀ p ∈ [up, slipped, raised .wrapSide up, raised .wrapSide slipped], p.power.powered = true ∧ p.Noticed ∧
      p.intervalDue = true ∧ p.engine.encodersOn = true ∧ p.engine.az.referenced = true ∧ p.engine.el.referenced = true ∧
      p.engine.motion = .ready) ∧
    (up.engine.az.zero = 0 ∧ up.active .wrapSide = false ∧ (raised .wrapSide up).active .wrapSide = true ∧
     ¬(7200000 : Int) < 7200000 ∧ (7200000 : Int) < 7200001 ∧ (-7200001 : Int) < -7200000 ∧
     up.engine.mismatch = false ∧ slipped.engine.mismatch = true) := by
  refine ⟨fun p h => ?_, by decide⟩
  repeat
    rcases List.mem_cons.1 h with rfl | h
    · exact ⟨by decide, ⟨rfl, rfl, rfl⟩, by decide, by decide, by decide, by decide, by decide⟩
  exact absurd h List.not_mem_nil

theorem test_witness_RestingIntervals_arrivals :
    let c := up.engine.cfg
    let eases := withE (fun e => { e with motion := .stopping, az := goes 0 36000 e.az }) up
    let parks := withE (fun e => { e with motion := .parking, az := goes c.parkAz 0 e.az, el := goes c.elHi 0 e.el }) up
    let stows := withE (fun e => { e with motion := .stowing, el := goes c.stowEl 0 e.el }) up
    let halted := withE (fun e => { e with halting := true }) stows
    let backs (start : Mas) := withE (fun e => { e with
      motion := .backout, backout := some { axis := .az, dir := .neg, start := start } }) up
    let e : Entry := entry 1 .park
    let worked := { runs .acquiring { RunCtx.blank with id := some 1, record := some 1 } parks with
      list := { up.list with entries := [e] } }
    (∀ p ∈ [eases, parks, backs 0, raised .azPrePos (backs 18000000), worked],
      p.Reads 0 ∧ p.Noticed ∧ p.wind.hold = false ∧ p.power.restarting = false ∧ p.engine.request = none ∧
      p.model.pending = false) ∧
    (∀ p ∈ [holding stows, holding halted, holding eases, restarting (holding eases), holding parks, holding (backs 0)],
      p.Reads 0 ∧ p.Noticed ∧ p.wind.hold = true ∧ p.engine.request = none ∧ p.model.pending = false) ∧
    (0 < c.accel ∧ c.azLo ≤ c.azHi ∧ c.elLo ≤ c.elHi ∧ c.azLo ≤ c.parkAz ∧ c.parkAz ≤ c.azHi ∧ c.elLo ≤ c.stowEl ∧
     c.stowEl ≤ c.elHi) ∧
    (broughtTo c.accel eases.engine.az.velocity 0 = 0 ∧ parks.runner.state.working = false ∧
     worked.runner.state = .acquiring ∧ worked.list.find 1 = some e ∧ e.body = .park ∧ worked.engine.target = none ∧
     c.elHi < c.parkEl ∧ (raised .azPrePos (backs 18000000)).active (preLimit .az Side.neg.flip) = true) ∧
    (after (.demandInterval 0 162000000) eases).engine.motion = .ready ∧
    (after (.demandInterval c.parkAz c.elHi) parks).engine.motion = .parked ∧
    (after (.demandInterval 0 c.stowEl) (holding stows)).engine.motion = .stowed ∧
    (after (.demandInterval 0 162000000) (holding stows)).engine.motion = .stowing ∧
    (after (.demandInterval 0 c.stowEl) (holding halted)).engine.motion = .stowed ∧
    (after (.demandInterval 0 162000000) (holding eases)).engine.motion = .stowing ∧
    (after (.demandInterval 0 162000000) (raised .azPrePos (backs 18000000))).engine.motion = .tripped := by
  refine ⟨fun p h => ?_, fun p h => ?_, by decide, by decide +kernel⟩
  · repeat
      rcases List.mem_cons.1 h with rfl | h
      · exact ⟨⟨by decide, by decide, by decide, by decide, by decide, by decide⟩, ⟨rfl, rfl, rfl⟩, by decide, by decide,
          by decide, by decide⟩
    exact absurd h List.not_mem_nil
  · repeat
      rcases List.mem_cons.1 h with rfl | h
      · exact ⟨⟨by decide, by decide, by decide, by decide, by decide, by decide⟩, ⟨rfl, rfl, rfl⟩, by decide⟩
    exact absurd h List.not_mem_nil

theorem test_witness_DemandsWithinSoftLimits :
    let p := up
    p.intervalDue = true ∧ p.power.powered = true ∧ p.engine.cfg.azLo ≤ p.engine.cfg.azHi ∧
    p.engine.cfg.elLo ≤ p.engine.cfg.elHi ∧
    p.engine.motion ∈ [.unparking, .ready, .slewing, .settling, .tracking, .keyhole, .stopping, .parking, .stowing,
      .stowed] ∧ p.engine.motion ≠ .tracking ∧ p.engine.motion ≠ .keyhole ∧ p.EngineOk ∧
    ∃ t, exec (.demandInterval (-1) 162000000) (st p) = .next t ∧ t.part.engine.motion = .ready :=
  ⟨by decide, by decide, by decide, by decide, by decide, by decide, by decide, ⟨by decide, by decide⟩,
   ⟨_, rfl, by decide⟩⟩

theorem test_witness_TrackingDemandFollows :
    let meets (p : Part) (t : Target) (after : Guide) : Prop :=
      let a := aimDemand { p with guide := after } t.given.coords
      let az : Mas := match t.given.coords with
        | .axis x _ => x
        | _ => p.engine.az.demand + signedTurn (a.axes.az - p.engine.az.demand)
      p.power.powered = true ∧ p.engine.motion = .tracking ∧ p.intervalDue = true ∧ p.engine.encodersOn = true ∧
      p.engine.az.referenced = true ∧ p.engine.el.referenced = true ∧
      wrapDisagrees (p.active .wrapSide) (-1 + p.engine.az.zero) = false ∧ p.engine.target = some t ∧
      0 ≤ p.guide.rate ∧ 50 * (2 * 75 - 1) ≤ p.guide.rate ∧ p.guide.rate < 50 * (2 * 75 + 1) ∧
      (a.place.all (standsAbove p t.given.minAlt)) = true ∧ inCone p t.given.coords a = false ∧
      inZones p.limits { az := az, el := a.axes.el } = false ∧ azInside p.engine.cfg az = true ∧
      elInside p.engine.cfg a.axes.el = true
    (let p := tracks ours up
     meets p ours p.guide ∧ p.guide.allowed = false ∧ (aimDemand p ours.given.coords).place.isSome = true) ∧
    (let t := aimed { asked .goto (some 1) with coords := .axis (-972000000) 18000000 }
     let p := tracks t up
     meets p t p.guide ∧ p.guide.allowed = false ∧
     (after (.demandInterval (-1) 0) p).engine.az.demand = -972000000) ∧
    (let t := aimed { asked .goto (some 1) with guide := true }
     let q := notices (tracks t up)
     let g := { q.guide with accA := 59990, remA := 100, remE := -10 }
     let p := { q with guide := g, log := { records := [RunRec.fresh 1 .goto .altaz], next := 2 } }
     meets p t { g with accA := 60000, remA := 0, accE := -10, remE := 0, saturated := true } ∧ g.allowed = true ∧
     (rampStep 75 59990 100).saturated = true ∧ g.counted = some 1 ∧ (p.log.find 1).isSome = true) := by decide +kernel

/-- A part at an interval of 500 ms of time base whose axes' over-threshold runs began at the given instants. -/
def erring (a e : Option Ms) (p : Part) : Part :=
  atBase 500 (withE (fun x => { x with
    az := { x.az with overSince := a }, el := { x.el with overSince := e }, demandAt := some 500 }) p)

theorem test_witness_FollowingErrorTrips :
    let due (x : AxisState) : Bool := x.overSince.any fun b => decide (b + 500 ≤ 500)
    let meets (p : Part) : Prop :=
      p.power.powered = true ∧ p.engine.demandAt = some p.clock.timeBase ∧ p.clock.timeBase = 500 ∧
      p.model.pending = false ∧ p.engine.passage = none ∧ p.engine.motion ∉ [.tripped, .parked, .dormant]
    (let p := erring (some 1) none (tracks ours up)
     meets p ∧ p.Noticed ∧ due p.engine.az = false ∧ due p.engine.el = false) ∧
    (let p := erring (some 0) (some 1) (tracks ours up)
     meets p ∧ due p.engine.az = true ∧ due p.engine.el = false ∧ p.engine.target = some ours ∧
     ours.given.origin = .goto ∧ ours.given.record = some 1 ∧ p.runner.state = .idle) ∧
    (let p := erring none (some 0) up
     meets p ∧ due p.engine.el = true ∧ p.engine.target = none ∧ p.runner.state.working = false) ∧
    (let p := erring (some 0) (some 0) (works .tracking brief Opts.none .observing)
     meets p ∧ due p.engine.az = true ∧ due p.engine.el = true ∧ p.runner.state.working = true ∧
     p.runner.ctx.id = some 1 ∧ p.runner.ctx.record = some 1 ∧
     p.engine.target.all (fun t => t.given.origin != .goto) = true) :=
  ⟨⟨by decide, ⟨rfl, rfl, rfl⟩, by decide⟩, by decide, by decide, by decide⟩

theorem test_witness_SamplesAreVerified :
    let p := atBase 8 up
    let f := p.inputs.get .azPrePos
    let raw := { p with inputs := p.inputs.set .azPrePos { f with cfg := { f.cfg with code := 0 } } }
    p.power.powered = true ∧ p.Noticed ∧ f.enabled = true ∧ f.cfg.code ≠ 0 ∧
    p.clock.timeBase % verifyTime f.cfg.code = 0 ∧ f.sampledAt ≠ some p.clock.timeBase ∧
    f.last ≠ some (Level.low == f.cfg.polarity) ∧ f.recognised = some (Level.high == f.cfg.polarity) ∧
    (atBase 7 up).clock.timeBase % verifyTime f.cfg.code ≠ 0 ∧ ((atBase 7 up).inputs.get .wind).enabled = false ∧
    (raw.Recognises .azPrePos true ∧ (raw.inputs.get .azPrePos).cfg.code = 0 ∧
     (raw.inputs.get .azPrePos).last = none ∧ raw.Noticed) :=
  ⟨by decide, ⟨rfl, rfl, rfl⟩, by decide, by decide, by decide, by decide, by decide, by decide, by decide, by decide,
   ⟨rfl, rfl, rfl, by decide, .inl rfl, rfl⟩, by decide, by decide, ⟨rfl, rfl, rfl⟩⟩

/-- A part at 8,192 ms with one input of the longest filter about to be recognised ACTIVE. -/
def nearly (i : InputName) (p : Part) : Part :=
  atBase 8192 (withInput i (fun f => { armed f with cfg := { f.cfg with code := 7 } }) p)

/-- A part at 8,192 ms with one input of the longest filter about to be recognised INACTIVE. -/
def turning (i : InputName) (p : Part) : Part :=
  atBase 8192 (withInput i (fun f => { f with
    cfg := { f.cfg with code := 7 }, enabled := true, last := some false, recognised := some true }) p)

theorem test_witness_SamplesAreVerified_limits :
    (∀ i, switchable i = false → (nearly i up).Recognises i true) ∧ (nearly .wrapSide up).Noticed ∧
    (∀ i, switchable i = false →
      (turning i up).Recognises i false ∧ (turning i up).Noticed ∧ (turning i up).engine.motion ≠ .backout) ∧
    (∀ m ∈ ([.ready, .stopping, .backout, .parked, .parking, .stowing, .referencing] : List Motion),
      (nearly .azPrePos (inMotion m)).Recognises .azPrePos true ∧ (nearly .azPrePos (inMotion m)).Noticed) ∧
    (let p := withE (fun e => { e with az := { e.az with velocity := fx } }) (tracks ours up)
     p.engine.motion = .tracking ∧ p.engine.target = some ours ∧ ours.given.origin = .goto ∧
     ours.given.record = some 1 ∧ p.engine.passage = none ∧ p.model.pending = false ∧ p.engine.az.velocity ≠ 0 ∧
     p.runner.state.working = false) ∧
    (let d : Search := { dir := .pos, reversed := false, found := false }
     let p := withE (fun e => { e with halting := false, az := { e.az with search := some d } }) (inMotion .referencing)
     p.engine.motion = .referencing ∧ p.engine.halting = false ∧ p.engine.az.search = some d ∧ d.dir = .pos) := by
  refine ⟨fun i _ => ?_, ⟨rfl, rfl, rfl⟩, fun i _ => ?_, fun m h => ?_, by decide, by decide⟩
  · cases i <;> exact ⟨rfl, rfl, rfl, by decide, .inr rfl, rfl⟩
  · cases i <;> exact ⟨⟨rfl, rfl, rfl, by decide, .inr rfl, rfl⟩, ⟨rfl, rfl, rfl⟩, by decide⟩
  · repeat
      rcases List.mem_cons.1 h with rfl | h
      · exact ⟨⟨rfl, rfl, rfl, by decide, .inr rfl, rfl⟩, ⟨rfl, rfl, rfl⟩⟩
    exact absurd h List.not_mem_nil

theorem test_witness_SamplesAreVerified_endings :
    let moves (v : Int) (p : Part) : Part := withE (fun e => { e with az := { e.az with velocity := v * fx } }) p
    let k : Passage := { entered := 0, exitAt := 0, exitAz := 0 }
    let opened (p : Part) : Part := { p with log := { records := [RunRec.fresh 1 .goto .altaz], next := 2 } }
    let passes := opened (withE (fun e => { e with motion := .keyhole, passage := some k }) (moves 1 (tracks ours up)))
    let lists (m : Motion) : Part := notices (works m brief Opts.none .observing)
    let parks : Part := withE (fun e => { e with target := none }) (works .parking .park Opts.none .acquiring)
    let seeks := withE (fun e => { e with
      halting := false
      az := { e.az with search := some { dir := .pos, reversed := true, found := false } } }) (inMotion .referencing)
    let act : Instr := .inputRecognition .azPrePos up.inputs.azPrePos.cfg.polarity
    (∀ p ∈ [passes, opened (tracks ours up), lists .slewing, lists .tracking, parks, holding (moves 1 (inMotion .stowing)),
        holding (inMotion .stowing), seeks],
      (nearly .azPrePos p).Recognises .azPrePos true ∧ (nearly .azPrePos p).Noticed) ∧
    ((tracks ours up).engine.az.velocity = 0 ∧ up.wind.hold = false ∧ passes.engine.az.velocity = fx) ∧
    (let q := after act (nearly .azPrePos passes)
     q.engine.motion = .stopping ∧ (q.log.find 1).map (fun r => (r.keyholeMs, r.outcome)) = some (8192, some .preLimit)) ∧
    (let p := nearly .azPrePos (lists .tracking)
     let q := after act p
     p.engine.target.map (fun t => (t.given.origin, t.given.record)) = some (.list 1, some 1) ∧
     p.runner.ctx.record = some 1 ∧ p.runner.ctx.id = some 1 ∧ q.runner.state = .held .host ∧
     (q.log.find 1).map RunRec.outcome = some (some .preLimit)) ∧
    (parks.list.find 1 = some (entry 1 .park) ∧ parks.runner.state.working = true ∧ parks.engine.az.velocity ≠ 0 ∧
     parks.engine.target = none ∧ parks.engine.passage = none) ∧
    (after act (nearly .azPrePos (holding (inMotion .stowing)))).engine.motion = .stowed ∧
    (let q := after act (nearly .azPrePos seeks)
     q.engine.motion = .tripped ∧ q.engine.el.referenced = false ∧
     (q.faults.recs.take 2).map (fun o => o.map FaultRec.reason) = [some .preLimit, some .noIndex]) := by
  refine ⟨fun p h => ?_, by decide +kernel⟩
  repeat
    rcases List.mem_cons.1 h with rfl | h
    · exact ⟨⟨rfl, rfl, rfl, by decide, .inr rfl, rfl⟩, ⟨rfl, rfl, rfl⟩⟩
  exact absurd h List.not_mem_nil

theorem test_witness_SamplesAreVerified_backout :
    let backs (v : Int) : Part := withE (fun e => { e with
      motion := .backout, backout := some { axis := .az, dir := .neg, start := 0 },
      az := { e.az with velocity := v * fx } }) up
    let quiet (p : Part) : Instr := .inputRecognition .azFinPos (p.levelOf .azFinPos false)
    (∀ p ∈ [backs 0, backs 1, raised .azPrePos (backs 1)],
      (turning .azFinPos p).Recognises .azFinPos false ∧ (turning .azFinPos p).Noticed ∧
      p.engine.motion = .backout ∧ p.engine.backout = some { axis := .az, dir := .neg, start := 0 } ∧
      p.model.pending = false) ∧
    (let q (p : Part) : Engine := (after (quiet (turning .azFinPos p)) (turning .azFinPos p)).engine
     (q (backs 0)).motion = .tripped ∧ (q (backs 1)).motion = .backout ∧ (q (backs 1)).halting = true ∧
     (q (raised .azPrePos (backs 1))).halting = false) := by
  refine ⟨fun p h => ?_, by decide +kernel⟩
  repeat
    rcases List.mem_cons.1 h with rfl | h
    · exact ⟨⟨rfl, rfl, rfl, by decide, .inr rfl, rfl⟩, ⟨rfl, rfl, rfl⟩, by decide⟩
  exact absurd h List.not_mem_nil

theorem test_witness_SamplesAreVerified_dome :
    let turns (active : Bool) (p : Part) : Part :=
      withInput .dome (fun f => { f with last := some active, recognised := some (!active) }) (nearly .dome p)
    let reached (p : Part) : Part := withE (fun e => { e with target := e.target.map fun t => { t with reached := true } }) p
    let absent (p : Part) : Part :=
      { p with runner := { p.runner with ctx := { p.runner.ctx with domeFrom := some 0 } } }
    let track := works .tracking brief Opts.none .acquiring
    let slew := works .slewing brief Opts.none .acquiring
    (∀ b, ∀ p ∈ [up, track, slew, reached track, absent track, absent (reached slew)],
      (turns b p).Recognises .dome b ∧ (turns b p).Noticed) ∧
    (turns true up).runner.state.working = false ∧ (turns false (reached track)).trackedOnce = true ∧
    0 < (turns false (reached track)).runner.domeWait ∧ (turns false slew).trackedOnce = false ∧
    (turns true slew).runner.ctx.domeFrom = none ∧ (turns true (absent track)).runner.ctx.domeFrom = some 0 ∧
    (turns true (absent track)).onEntry = true ∧ (turns true (absent track)).engine.motion = .tracking ∧
    (turns true (absent (reached slew))).engine.motion = .slewing := by
  refine ⟨fun b p h => ?_, by decide⟩
  cases b <;>
    repeat
      rcases List.mem_cons.1 h with rfl | h
      · exact ⟨⟨rfl, rfl, rfl, by decide, .inr rfl, rfl⟩, ⟨rfl, rfl, rfl⟩⟩
  all_goals exact absurd h List.not_mem_nil

theorem test_witness_WindHoldStartsAndEnds :
    let act : Instr := .inputRecognition .wind up.inputs.wind.cfg.polarity
    let gone := { tracks ours up with log := { records := [RunRec.fresh 1 .goto .altaz], next := 2 } }
    let passes := withE (fun e => { e with
      motion := .keyhole, passage := some { entered := 0, exitAt := 0, exitAz := 0 } }) gone
    let parks : Part := withE (fun e => { e with target := none }) (works .parking .park Opts.none .acquiring)
    let waits : Part := withE (fun e => { e with target := none }) (works .unparking brief Opts.none .acquiring)
    let observes : Part := notices (works .tracking brief Opts.none .observing)
    (∀ p ∈ [up, gone, passes, observes, runs .waiting RunCtx.blank up,
        runs .intercept RunCtx.blank (inMotion .stopping), inMotion .parked, parks, waits, holding (inMotion .stowed)],
      (nearly .wind p).Recognises .wind true ∧ (nearly .wind p).Noticed ∧ p.power.restarting = false) ∧
    (parks.parkCurrent = true ∧ waits.parkCurrent = false ∧ waits.runner.ctx.id = some 1 ∧
     waits.runner.ctx.record = some 1 ∧ waits.engine.target = none ∧ up.wind.hold = false ∧
     (observes).parkCurrent = false) ∧
    (let q := after act (nearly .wind passes)
     q.engine.motion = .stowing ∧ (q.log.find 1).map (fun r => (r.keyholeMs, r.outcome)) = some (8192, some .stowed)) ∧
    (let q := after act (nearly .wind (observes))
     q.engine.motion = .stowing ∧ q.runner.state = .held .wind ∧ q.runner.windResume = true ∧
     (q.log.find 1).map RunRec.outcome = some (some .stowed)) ∧
    ((after act (nearly .wind parks)).runner.state = .acquiring ∧ (after act (nearly .wind waits)).engine.motion = .unparking ∧
     (after act (nearly .wind (holding (inMotion .stowed)))).wind.timer = none) := by
  refine ⟨fun p h => ?_, by decide +kernel⟩
  repeat
    rcases List.mem_cons.1 h with rfl | h
    · exact ⟨⟨rfl, rfl, rfl, by decide, .inr rfl, rfl⟩, ⟨rfl, rfl, rfl⟩, rfl⟩
  exact absurd h List.not_mem_nil

theorem test_witness_SlewsMoveAndArrive :
    (let p := withE (fun e => { e with motion := .slewing, target := some ours }) up
     let a := aimDemand p ours.given.coords
     let c := p.engine.cfg
     let az := ours.destAz + signedTurn (a.axes.az - ours.destAz)
     p.Reads (-1) ∧ p.Noticed ∧ p.engine.motion = .slewing ∧ p.engine.target = some ours ∧ ours.noRun = false ∧ c.azLo ≤ az ∧ az ≤ c.azHi ∧
     c.elLo ≤ a.axes.el ∧ a.axes.el ≤ c.elHi ∧ inZones p.limits { az := az, el := a.axes.el } = false) ∧
    (let there (x : AxisState) (d : Mas) : AxisState := { x with demand := d, encoder := d, captured := true }
     let p := raised .wrapSide (withE (fun e => { e with
       motion := .slewing, target := some ours, cfg := { e.cfg with settle := 0 },
       az := there e.az 36000000, el := there e.el 180000000 }) up)
     p.Noticed ∧ p.engine.passage = none ∧ p.onEntry = false ∧
     (after (.demandInterval 36000000 180000000) p).engine.motion = .tracking) ∧
    (let x := up.engine.az
     let y := { x with velocity := 10800000 * fx }
     x.velocity = 0 ∧ (3600000 : Int) ≤ 100 * 10800000 ∧ 3600000 * fx ≤ 10000 * (36000000 * fx - x.profileStart) ∧
     3600000 * fx ≤ -(10000 * (-36000000 * fx - x.profileStart)) ∧ y.velocity ≤ 10800000 * fx ∧
     10800000 * 10800000 * fx * 100 + 2 * 3600000 * 10800000 * fx + 200 * 3600000
       ≤ 200 * 3600000 * (972000000 * fx - y.profileStart)) :=
  ⟨⟨⟨rfl, by decide, rfl, rfl, rfl, by decide⟩, ⟨rfl, rfl, rfl⟩, by decide, by decide, by decide +kernel⟩,
   ⟨⟨rfl, rfl, rfl⟩, by decide +kernel⟩, by decide +kernel⟩

/-- A GOTO target of run record 1 with other coordinates, in a motion state. -/
def heads (m : Motion) (c : Coords) : Part :=
  let t := aimed { asked .goto (some 1) with coords := c }
  { withE (fun e => { e with motion := m, target := some t }) up with
    log := { records := [RunRec.fresh 1 .goto .altaz], next := 2 } }

/-- A slew to a target inside the soft limits whose wrap choice found every run 0. -/
def runless : Part :=
  withE (fun e => { e with target := e.target.map fun t => { t with noRun := true } })
    (heads .slewing (.altaz 36000000 180000000))

/-- R60: the engine's own choice with every run 0 is kept with the target, and the slew ends LIMIT at its first interval,
although its destination lies inside the soft limits. -/
theorem test_slew_without_a_run :
    (let p := withE (fun e => { e with cfg := { e.cfg with azLo := 0, azHi := 35999999 } }) up
     (takeTarget (asked .goto (some 1)) p).engine.target.any Target.noRun = true ∧
     (takeTarget (asked .goto (some 1)) up).engine.target.any Target.noRun = false) ∧
    (let q := after (.demandInterval (-1) 162000000) runless
     (q.log.find 1).bind RunRec.outcome = some .limit ∧ q.engine.target = none ∧
     (after (.demandInterval (-1) 162000000) (heads .slewing (.altaz 36000000 180000000))).engine.motion = .slewing) := by
  decide +kernel

theorem test_witness_FollowedTargetsEnd :
    let fenced (p : Part) : Part :=
      { p with limits := { p.limits with zones := [{ azMin := -1, azMax := 36000000, elMin := 0, elMax := 200000000, on := true }] } }
    let low : Coords := .altaz 36000000 0
    (∀ p ∈ [fenced (heads .settling (.altaz 36000000 180000000)), heads .tracking low, heads .slewing low,
       heads .slewing (.axis 972000001 162000000), runless],
      p.Reads (-1) ∧ p.Noticed ∧ p.engine.motion ∈ [.slewing, .settling, .tracking] ∧ p.engine.target ≠ none ∧
      p.guide.allowed = false ∧ p.engine.passage = none ∧ p.model.pending = false ∧ p.wind.hold = false ∧
      p.runner.ctx.record ≠ some 1 ∧ p.log.find 1 = some (RunRec.fresh 1 .goto .altaz)) ∧
    inZones (fenced up).limits { az := 36000000, el := 180000000 } = true ∧
    (aimDemand up low).place = some { alt := 0, az := 36000000, hour := 0 } ∧ 0 < effectiveLower up none 36000000 ∧
    (aimDemand up low).axes.el < up.engine.cfg.elLo ∧ up.engine.cfg.azHi < 972000001 ∧
    runless.engine.motion = .slewing ∧ runless.engine.target.any Target.noRun = true ∧
    inZones runless.limits { az := 36000000, el := 180000000 } = false ∧
    (let p := notices (works .tracking (.altaz 36000000 0 1000) Opts.none .observing)
     p.Noticed ∧ p.runner.state.working = true ∧ p.runner.ctx.record = some 1 ∧ p.runner.ctx.id = some 1 ∧
     p.power.restarting = false ∧ (p.log.find 1).isSome = true) := by
  refine ⟨fun p h => ?_, by decide +kernel, by decide +kernel, by decide +kernel, by decide +kernel, by decide,
    rfl, rfl, by decide, ⟨rfl, rfl, rfl⟩, by decide⟩
  repeat
    rcases List.mem_cons.1 h with rfl | h
    · exact ⟨⟨rfl, by decide, rfl, rfl, rfl, by decide⟩, ⟨rfl, rfl, rfl⟩, by decide⟩
  exact absurd h List.not_mem_nil

/-- A place near the zenith of `up` at 1,000 s, `east` mas of hour angle before the meridian and `south` mas south of it. -/
def near (east south : Int) : Coords := .sky east (up.site.latitude - south) none

theorem test_witness_KeyholePassage :
    (let c := near 100000 1000000
     let p := { heads .tracking c with clock := (clocked up).clock }
     let a := aimDemand p c
     let az := signedTurn a.axes.az
     p.Reads (-1) ∧ p.Noticed ∧ c.isSky = true ∧ p.guide.allowed = false ∧ p.clock.reading = some 1000000 ∧
     (a.place.any fun pl => decide (p.engine.cfg.keyAlt ≤ pl.alt) && standsAbove p none pl &&
       decide (signedTurn pl.hour < 0 ∧ 15041069 * (2 * 13297 - 1) ≤ 4000000 * -signedTurn pl.hour ∧
         4000000 * -signedTurn pl.hour < 15041069 * (2 * 13297 + 1))) = true ∧
     inZones p.limits { az := az, el := a.axes.el } = false ∧ azInside p.engine.cfg az = true ∧
     elInside p.engine.cfg a.axes.el = true ∧ (placeAt p c 1000000).isSome = true ∧ (placeAt p c 999000).isSome = true ∧
     (after (.demandInterval (-1) 162000000) p).engine.motion = .keyhole ∧
     (let tight := withE (fun e => { e with cfg := { e.cfg with azLo := az - 1, azHi := az + 1 } }) p
      let q := after (.demandInterval (-1) 162000000) tight
      tight.Noticed ∧ tight.model.pending = false ∧ tight.wind.hold = false ∧ tight.engine.passage = none ∧
      (tight.log.find 1).isSome = true ∧ (q.log.find 1).bind RunRec.outcome = some .limit ∧ q.engine.motion = .ready ∧
      q.engine.az.demand = p.engine.az.demand)) ∧
    (let passes (c : Coords) (t : SiteTime) : Part :=
       withE (fun e => { e with passage := some { entered := 0, exitAt := t, exitAz := 36000000 } })
         { heads .keyhole c with clock := (clocked up).clock }
     let c := near 0 20000000
     let b := aimDemand (passes c 1000000) c
     (∀ p ∈ [passes c 1000001, passes (near 0 1000000) 1000000, passes c 1000000],
       p.Reads (-1) ∧ p.Noticed ∧ p.engine.motion = .keyhole ∧ p.clock.reading = some 1000000 ∧
       p.runner.state.working = false ∧ p.model.pending = false ∧ p.wind.hold = false) ∧
     (aimDemand (clocked up) (near 0 1000000)).place.any (fun pl => decide (up.engine.cfg.keyAlt ≤ pl.alt)) = true ∧
     b.place.any (fun pl => decide (up.engine.cfg.keyAlt ≤ pl.alt)) = false ∧
     elInside up.engine.cfg b.axes.el = true ∧
     azInside up.engine.cfg (36000000 + signedTurn (b.axes.az - 36000000)) = true ∧
     (36000000 + signedTurn (b.axes.az - 36000000)) - (-1) > up.engine.cfg.arrTol) ∧
    (let k : Passage := { entered := 0, exitAt := 0, exitAz := 0 }
     let p := atBase 3000
       (withE (fun e => { e with motion := .settling, arrivedAt := some 0, target := some ours, passage := some k }) up)
     p.power.powered = true ∧ p.Noticed ∧ ((0 : Nat) : Int) + max 0 p.engine.cfg.settle ≤ p.clock.timeBase ∧
     ours.given.origin = .goto ∧ ours.given.guide = false ∧ ours.given.record = some 1 ∧ p.runner.ctx.record = none ∧
     (let q := withE (fun e => { e with passage := some k, az := { e.az with velocity := fx } })
        (heads .keyhole (near 0 1000000))
      Takes (st q) .a .stop ∧ q.runner.state.running = false ∧ q.engine.motion = .keyhole ∧ q.model.pending = false ∧
      q.engine.az.velocity ≠ 0 ∧ q.log.find 1 = some (RunRec.fresh 1 .goto .altaz))) := by
  refine ⟨⟨⟨rfl, by decide, rfl, rfl, rfl, by decide⟩, ⟨rfl, rfl, rfl⟩, by decide, by decide, by decide, by decide +kernel,
    by decide +kernel, by decide +kernel, by decide +kernel, by decide +kernel, by decide +kernel, by decide +kernel,
    ⟨rfl, rfl, rfl⟩, by decide +kernel⟩, ⟨fun p h => ?_, by decide +kernel⟩,
    by decide, ⟨rfl, rfl, rfl⟩, by decide, by decide, by decide, by decide, by decide,
    takes_up rfl ⟨rfl, rfl, rfl⟩ ⟨rfl, rfl, rfl⟩, by decide⟩
  repeat
    rcases List.mem_cons.1 h with rfl | h
    · exact ⟨⟨rfl, by decide, rfl, rfl, rfl, by decide⟩, ⟨rfl, rfl, rfl⟩, by decide, by decide +kernel, by decide⟩
  exact absurd h List.not_mem_nil

theorem test_witness_EntriesClose :
    let o := { Opts.none with giveUp := some 1000000 }
    let e : Entry := { entry 1 brief with opts := o }
    let k : Passage := { entered := 0, exitAt := 0, exitAz := 0 }
    let base (m : Motion) (r : RunState) : Part :=
      let q := { works m brief o r with clock := { (clocked up).clock with timeBase := 60000 } }
      { q with runner := { q.runner with ctx := { q.runner.ctx with accum := 1000, domeFrom := some 0 } } }
    let arrived (p : Part) : Part := withE (fun e => { e with target := e.target.map fun t => { t with arrived := true } }) p
    let passes := withE (fun e => { e with passage := some k }) (arrived (base .keyhole .observing))
    let waits := withE (fun e => { e with target := none, request := some (asked (.list 1) (some 1)) })
      (base .unparking .acquiring)
    let still (p : Part) : Part := withE (fun e => { e with az := { e.az with velocity := 0 } }) p
    (∀ p ∈ [base .slewing .acquiring, base .tracking .observing, arrived (base .settling .acquiring),
        arrived (base .tracking .observing), passes, waits, still (base .slewing .acquiring)],
      p.power.powered = true ∧ p.runner.state.working = true ∧ p.runner.ctx.id = some e.id ∧ p.list.find e.id = some e ∧
      p.runner.ctx.record = some 1 ∧ e.body.dwell ≤ p.dwellSoFar ∧
      (p.engine.target.all fun t => t.given.record = some 1 ∧ t.given.origin = .list 1) = true ∧
      (p.engine.target = none → p.engine.passage = none) ∧ e.opts.giveUp = some 1000000 ∧
      p.clock.reading = some 1060000 ∧ p.runner.ctx.domeFrom = some 0 ∧
      0 + p.runner.domeWait ≤ p.clock.timeBase ∧ p.wind.hold = false) ∧
    (waits.engine.target = none ∧ passes.engine.target.any Target.arrived = true ∧
     (base .slewing .acquiring).engine.target.any Target.arrived = false) ∧
    ((after .giveUp passes).engine.motion = .keyhole ∧ (after .giveUp (base .slewing .acquiring)).engine.motion = .stopping ∧
     (after .giveUp (still (base .slewing .acquiring))).engine.motion = .ready ∧
     (after .giveUp waits).engine.motion = .unparking ∧ (after .giveUp waits).engine.request = none ∧
     ((after .giveUp passes).log.find 1).map RunRec.outcome = some (some .timedOut)) ∧
    ((after .domeTimeout passes).engine.motion = .stopping ∧
     ((after .domeTimeout passes).log.find 1).map RunRec.keyholeMs = some 60000) ∧
    (after .dwellComplete (arrived (base .tracking .observing))).runner.state = .held .host := by
  decide +kernel

/-- A part in READY that waits for the start instant of entry 1 at 1,000 s. -/
def waits (b : Body) : Part :=
  let p := listOf [entry 1 b] (runs .waiting { RunCtx.blank with id := some 1, startAt := some 1000000 } (clocked up))
  { p with runner := { p.runner with holdAfter := true } }

/-- The part without hold-after-current, further entries behind those of its list, and a slot on id 2. -/
def unheld (es : List Entry) (p : Part) : Part :=
  { p with
    runner := { p.runner with holdAfter := false }
    list := { p.list with entries := p.list.entries ++ es, slots := [{ id := some 2, on := true }] } }

theorem test_witness_StartInstantStarts :
    let p := waits brief
    let gone (m : Motion) (reached : Bool) : Part :=
      let t := { ours with arrived := reached, reached := reached }
      { withE (fun e => { e with motion := m, target := some t }) p with
        log := { records := [RunRec.fresh 1 .goto .altaz], next := 2 } }
    let left : Part := { p with log := { records := [RunRec.fresh 1 .goto .altaz], next := 2 } }
    let idle (m : Motion) : Part := withE (fun e => { e with motion := m }) p
    let outcome (b : Body) (c : Coords) : Predicted :=
      let p := waits b
      let est := estimateFrom p c b.dwell .near p.demands 1000000
      (checkEntry p (entry 1 b) c p.engine.az.demand (1000000 + (est : Int))).outcome
    (∀ q ∈ [p, idle .stopping, gone .settling false, gone .tracking true, gone .keyhole true, gone .slewing false,
        gone .slewing true, idle .parked, idle .unparking, restarting left, restarting (idle .stopping)],
      q.power.powered = true ∧ q.runner.state = .waiting ∧
      q.runner.ctx.startAt = some 1000000 ∧ q.clock.reading = some 1000000 ∧ q.runner.ctx.id = some 1 ∧
      q.list.find 1 = some (entry 1 brief) ∧ q.countsTripped = false ∧ q.wind.hold = false ∧ q.model.pending = false ∧
      q.engine.passage = none) ∧
    (entry 1 brief).coords = some (.altaz 36000000 180000000) ∧
    outcome brief (.altaz 36000000 180000000) = .run ∧ Opts.none.giveUp = none ∧
    outcome (.altaz 0 0 1000) (.altaz 0 0) = .low ∧ (p.goneOnTo 1).map Prod.fst = some (.held .host) ∧
    ((unheld [] p).goneOnTo 1).map Prod.fst = some .empty ∧
    ((unheld [entry 2 .mark] p).goneOnTo 1).map Prod.fst = some .intercept ∧
    (∀ q ∈ [p, idle .stopping, gone .settling false, gone .tracking true, gone .slewing false],
      (after .startInstant q).engine.motion = .slewing) ∧
    ((after .startInstant (gone .slewing false)).log.find 1).bind RunRec.supersededBy = some 2 ∧
    ((after .startInstant (gone .slewing true)).log.find 1).bind RunRec.outcome = some .ended ∧
    (after .startInstant (idle .parked)).engine.motion = .unparking ∧
    (after .startInstant (idle .unparking)).engine.request.map Assignment.record = some (some 1) := by decide +kernel

/-- The Run Log of the parts above is in order, before and after a GOTO's record. -/
theorem test_witness_StartInstantStarts_log :
    (waits brief).log.Ok ∧ ({ records := [RunRec.fresh 1 .goto .altaz], next := 2 } : RunLog).Ok := by
  refine ⟨⟨by decide, by decide, fun r h => absurd h List.not_mem_nil⟩, ⟨by decide, by decide, fun r h => ?_⟩⟩
  cases List.mem_singleton.1 h
  exact ⟨by decide, by decide, by decide, by decide⟩

theorem test_witness_EmptyQueueTicks_heads :
    let next (e : Entry) (es : List Entry) (m : Motion) : Part :=
      listOf (e :: es) (runs .empty { RunCtx.blank with goingOn := true } (clocked (inMotion m)))
    let held : Entry := { entry 1 .mark with opts := { Opts.none with hold := true } }
    let early (nb : SiteTime) : Entry := { entry 1 brief with opts := { Opts.none with notBefore := some nb } }
    let c : Coords := .altaz 36000000 180000000
    let low : Entry := entry 1 (.altaz 0 0 1000)
    (∀ p ∈ [next (entry 1 .mark) [] .ready, next held [] .ready, next (entry 1 .park) [] .ready,
        next (entry 1 .park) [entry 2 .mark] .parked, next (early 2000000) [] .ready, next (early 1000000) [] .ready,
        next low [] .ready],
      p.power.powered = true ∧ p.runner.state = .empty ∧ p.runner.ctx.goingOn = true ∧ p.power.restarting = false ∧
      p.runner.holdAfter = false ∧ p.Noticed ∧ p.log.records = [] ∧ p.log.next = 1 ∧ p.list.trapped 1 = false ∧
      p.engine.target = none ∧ p.engine.passage = none ∧ p.model.pending = false ∧ p.wind.hold = false ∧
      p.countsTripped = false ∧ p.clock.reading = some 1000000) ∧
    ((next (entry 1 .mark) [] .ready).goneOnTo 1).map Prod.fst = some .empty ∧ held.opts.hold = true ∧
    (let p := next (early 2000000) [] .ready
     let est := estimateFrom p c 1000 .near p.demands 1000000
     let o (e : Entry) (c : Coords) := (checkEntry p e c p.engine.az.demand (1000000 + (est : Int))).outcome
     (1000000 : Int) < 2000000 - (est : Int) ∧ (1000000 : Int) - (est : Int) ≤ 1000000 ∧ o (early 1000000) c = .run ∧
     o low (.altaz 0 0) = .low) := by
  refine ⟨fun p h => ?_, by decide +kernel⟩
  repeat
    rcases List.mem_cons.1 h with rfl | h
    · exact ⟨rfl, rfl, rfl, rfl, rfl, ⟨rfl, rfl, rfl⟩, by decide +kernel⟩
  exact absurd h List.not_mem_nil

/-- A pass of the Planner at the first entry, its origin at 1,000 s and the axes at azimuth 0 and elevation 45 degrees. -/
def passOf (behind : Bool) : Pass :=
  { cursor := 1, began := 0, origin := 1000000, az := 0, el := 162000000, behindPark := behind }

theorem test_witness_PassesArePlanned :
    (let p (b : Body) (behind : Bool) : Part :=
       { listOf [entry 1 b] (clocked up) with planner := { pass := some (passOf behind) } }
     (p .mark true).power.powered = true ∧ (p .mark true).Noticed ∧ (p .mark true).planner.pass = some (passOf true) ∧
     1 ≤ (passOf true).cursor ∧ (p .mark true).list.entries[(passOf true).cursor - 1]? = some (entry 1 .mark) ∧
     (p .mark false).Noticed ∧ (p .mark false).planner.pass = some (passOf false) ∧
     (let q := p (.altaz 0 0 1000) false
      let e := entry 1 (.altaz 0 0 1000)
      q.Noticed ∧ q.planner.pass = some (passOf false) ∧ q.list.entries[0]? = some e ∧
      e.coords = some (.altaz 0 0) ∧ q.list.current ≠ some e.id ∧
      (checkEntry q e (.altaz 0 0) 0
        (1000000 + (estimateFrom q (.altaz 0 0) 1000 .near { az := 0, el := 162000000 } 1000000 : Int))).outcome ≠ .run) ∧
     (let q := p (.axis (-1) 162000000 1000) false
      let e := entry 1 (.axis (-1) 162000000 1000)
      q.Noticed ∧ q.list.entries[0]? = some e ∧ e.opts.giveUp = none ∧ e.opts.notBefore = none ∧
      q.list.current ≠ some e.id ∧
      (checkEntry q e (.axis (-1) 162000000) 0 (1000000 + (estimateFrom q (.axis (-1) 162000000) 1000 .near
        { az := 0, el := 162000000 } 1000000 : Int))).outcome = .run) ∧
     (let q := p .park false
      let r := { RunRec.fresh 1 (.list 1) .park with started := some (.site 999000) }
      let c := { q with list := { q.list with current := some 1 }, log := { records := [r], next := 2 },
                        runner := { q.runner with ctx := { q.runner.ctx with record := some 1 } } }
      q.Noticed ∧ q.list.entries[0]? = some (entry 1 .park) ∧ q.list.current ≠ some 1 ∧
      c.Noticed ∧ c.planner.pass = some (passOf false) ∧ c.list.current = some 1 ∧ c.runner.ctx.record = some 1 ∧
      c.log.find 1 = some r ∧ r.started = some (.site 999000) ∧ c.clock.reading = some 1000000)) ∧
    up.clock.isSet = false ∧ (clocked up).clock.reading = some 1000000 :=
  ⟨⟨by decide, ⟨rfl, rfl, rfl⟩, by decide, by decide, by decide, ⟨rfl, rfl, rfl⟩, by decide,
    ⟨⟨rfl, rfl, rfl⟩, by decide, by decide, by decide, by decide, by decide +kernel⟩,
    ⟨⟨rfl, rfl, rfl⟩, by decide, by decide, by decide, by decide, by decide +kernel⟩,
    ⟨rfl, rfl, rfl⟩, by decide, by decide, ⟨rfl, rfl, rfl⟩, by decide +kernel⟩, by decide, by decide +kernel⟩

theorem test_witness_RestartBeginsAndEnds :
    (let again (p : Part) : Part := { p with power := { p.power with restarting := true } }
     let meets (p : Part) : Prop :=
       p.power.powered = true ∧ p.power.restarting = true ∧ p.engine.az.velocity = 0 ∧ p.engine.el.velocity = 0 ∧
       p.model.pending = false ∧ p.engine.passage = none ∧
       (∀ i ∈ InputName.all, i ∉ [InputName.estop, .wrapSide, .wind, .dome] → p.active i = false)
     (∀ m ∈ ([.ready, .unparking, .stowed, .parked, .unreferenced, .waking, .dormant, .tripped] : List Motion),
       meets (again (inMotion m))) ∧
     (let p := again (raised .estop (raised .wind up))
      meets p ∧ p.active .estop = true ∧ p.active .wind = true) ∧
     up.log.records.find? RunRec.isOpen = none ∧
     (let r := RunRec.fresh 1 .goto .altaz
      let q := again { up with log := { records := [r], next := 2 } }
      meets q ∧ q.log.Ok ∧ q.log.records.find? RunRec.isOpen = some r ∧ q.runner.ctx.record ≠ some r.seq ∧
      (let w := { q with runner := { q.runner with ctx := { q.runner.ctx with record := some 1, accum := 700 } } }
       w.log.records.find? RunRec.isOpen = some r ∧ w.runner.ctx.record = some r.seq ∧ w.dwellSoFar = 700))) ∧
    Takes (st up) .a .rset ∧ up.engine.motion = .ready ∧ up.runner.state = .idle ∧
    (let p := notices (works .tracking brief Opts.none .observing)
     Takes (st p) .a .rset ∧ p.engine.motion = .tracking ∧ p.runner.state = .observing ∧
     p.runner.ctx.countFrom = some 0 ∧ p.engine.passage = none ∧ p.model.pending = false ∧ p.wind.hold = false ∧
     p.engine.az.velocity ≠ 0) :=
  ⟨⟨by decide, by decide, by decide, by decide,
    ⟨by decide, by decide, by intro r h; cases List.mem_singleton.1 h; exact ⟨by decide, by decide, by decide, by decide⟩⟩,
    by decide, by decide, by decide⟩,
   takes_up rfl ⟨rfl, rfl, rfl⟩ ⟨rfl, rfl, rfl⟩, by decide, by decide,
   takes_up rfl ⟨rfl, rfl, rfl⟩ ⟨rfl, rfl, rfl⟩, by decide⟩

/-- A part whose LINE A is in a given state. -/
def lineA (l : LineState) : Part := { up with line := up.line.set .a l }

/-- A reply of LINE A that began at time base 0. -/
def sent : Reply :=
  { address := 5, name := .known .stat, result := .ok, summary := 0, fields := [], since := 0 }

theorem test_witness_CharactersFormFrames_events :
    (let p := atBase 19 (lineA { LineState.blank with reply := some sent })
     p.power.powered = true ∧ p.Noticed ∧ (p.line.get .a).reply = some sent ∧
     sent.since + sent.airTime ≤ p.clock.timeBase) ∧
    (let p := atBase 21 (lineA { LineState.blank with buffer := [62] })
     p.power.powered = true ∧ p.Noticed ∧ (p.line.get .a).buffer ≠ [] ∧
     20 < p.clock.timeBase - (p.line.get .a).charAt) ∧
    up.power.loaded = true ∧ (up.line.get .a).reply = none ∧ (30 : BitVec 5) ≠ up.line.address ∧ (30 : BitVec 5) ≠ 31 :=
  ⟨⟨by decide, ⟨rfl, rfl, rfl⟩, by decide, by decide⟩, ⟨by decide, ⟨rfl, rfl, rfl⟩, by decide, by decide⟩, by decide⟩

theorem test_witness_CharactersFormFrames :
    let held (l : List Octet) : Part := atBase 20 (lineA { LineState.blank with buffer := l })
    let stat := hostFrame 5 .stat []
    (lineA { LineState.blank with reply := some sent }).line.a.reply ≠ none ∧
    (lineA { LineState.blank with reply := some sent }).Noticed ∧
    (held []).power.powered = true ∧ (held []).power.loaded = true ∧ (held []).Noticed ∧ (held []).line.a.reply = none ∧
    ((held [62]).line.get .a).buffer = [62] ∧ (held [62]).clock.timeBase - ((held [62]).line.get .a).charAt ≤ 20 ∧
    placeAfter ([62] ++ [48]) ≠ none ∧ placeAfter ([62] ++ [65]) = none ∧ readFrame [62] = none ∧
    stat = octets ">05STAT*A1" ∧
    readFrame stat = some { address := 5, letters := "STAT", fields := [] } ∧
    (5 : Nat) = up.line.address.toNat ∧
    frameOf (.stat (ownFrame .a) []) = some (nameOf "STAT", ownFrame .a, ([] : List (List Octet)).map readField) :=
  ⟨by decide, ⟨rfl, rfl, rfl⟩, by decide, by decide, ⟨rfl, rfl, rfl⟩, by decide +kernel⟩

theorem test_witness_FramesReadBack :
    [Field.num 999999999999999, .num (-999999999999999), .num 0, .word "LIST_END", .bad].all WellFormed.fieldOk = true := by
  decide +kernel

theorem test_witness_NothingHeardNothingDone :
    frameOf (.stat (ownFrame .a) []) = some (.known .stat, ownFrame .a, []) ∧
    State.reset.part.power.powered = true ∧ State.reset.part.Noticed ∧ State.reset.part.power.loaded = false ∧
    (lineA { LineState.blank with reply := some sent }).Noticed ∧
    ((lineA { LineState.blank with reply := some sent }).line.get (ownFrame .a).line).reply ≠ none ∧
    (let p := { up with power := { up.power with restarting := true } }
     p.power.loaded = true ∧ (p.line.get .a).reply = none ∧ p.Noticed) ∧
    { up.power with powered := false }.powered = false ∧ ∀ a, Instr.powerLoss ≠ .powerOn a :=
  ⟨by decide, by decide, ⟨rfl, rfl, rfl⟩, by decide, ⟨rfl, rfl, rfl⟩, by decide,
    ⟨by decide, by decide, ⟨rfl, rfl, rfl⟩⟩, by decide, by intro a; exact nofun⟩

theorem test_witness_NothingHeardNothingDone_turned_away :
    Hears up .a ∧ up.Noticed ∧ up.line.address ≠ 31 ∧ msgOf "ABCD" = none ∧ (up.line.get .a).muted = false ∧
    frameOf (.goto { line := .a, cast := .broadcast } []) = some (.known .goto, { line := .a, cast := .broadcast }, []) ∧
    MsgName.castable .goto = false ∧
    (let p := { up with line := { up.line with locksA := [.goto] } }
     Hears p .a ∧ p.Noticed ∧ p.line.address ≠ 31 ∧ p.line.isLocked .a .goto = true ∧ (p.line.get .a).muted = false ∧
     frameOf (.goto (ownFrame .a) []) = some (.known .goto, ownFrame .a, [])) :=
  ⟨⟨rfl, rfl, rfl, rfl⟩, ⟨rfl, rfl, rfl⟩, by decide, by decide, by decide, by decide, by decide,
    ⟨rfl, rfl, rfl, rfl⟩, ⟨rfl, rfl, rfl⟩, by decide, by decide, by decide, by decide⟩

theorem test_witness_RefusalsChangeNothing :
    (ownerOf .goto .a [] up).result.isErr = true ∧ (ownerOf .qadd .b [.bad] up).result.isErr = true := by decide +kernel

theorem test_witness_SummaryBits : (0 : Nat) < 16 ∧ (15 : Nat) < 16 ∧ (up.line.get .a).muted = false := by decide

/-- `up` takes every message on either line, and answers it. -/
theorem takes_each (ln : Line) (m : MsgName) : Takes (st up) ln m := by
  cases ln
  · exact takes_up rfl ⟨rfl, rfl, rfl⟩ ⟨rfl, rfl, rfl⟩
  · refine ⟨⟨⟨rfl, rfl, rfl, rfl⟩, by decide, rfl, rfl⟩, rfl, rfl, rfl⟩

theorem test_witness_ClockSiteModelQueries :
    (let p := clocked up
     Takes (st p) .a .clkq ∧ p.clock.reading = some 1000000 ∧ p.clock.trim = none) ∧
    (let t : Trim := { start := 0, delta := -500 }
     let p := { up with clock := { (clocked up).clock with trim := some t } }
     Takes (st p) .a .clkq ∧ p.clock.reading = some 1000000 ∧ p.clock.trim = some t) ∧
    Takes (st up) .a .clkq ∧ up.clock.isSet = false ∧ Takes (st up) .a .site ∧ Takes (st up) .a .mqry ∧
    ((0 : Int) ≤ 1295999999 ∧ (-324000000 : Int) ≤ 324000000) :=
  ⟨⟨takes_up rfl ⟨rfl, rfl, rfl⟩ ⟨rfl, rfl, rfl⟩, by decide +kernel, by decide⟩,
   ⟨takes_up rfl ⟨rfl, rfl, rfl⟩ ⟨rfl, rfl, rfl⟩, by decide +kernel, by decide⟩, takes_each .a .clkq, by decide,
   takes_each .a .site, takes_each .a .mqry, by decide⟩

theorem test_witness_MotionAndLimitQueries :
    Takes (st up) .a .posq ∧ up.engine.target = none ∧ Takes (st up) .a .limq ∧ up.engine.motion = .ready ∧
    (let p := tracks ours up
     Takes (st p) .a .posq ∧ p.engine.target = some ours ∧
     (let q := withE (fun e => { e with seen := some (180000000, 36000000) }) p
      Takes (st q) .a .limq ∧ q.engine.motion = .tracking ∧ q.engine.target = some ours ∧
      ours.given.coords.kind ≠ .axis ∧ q.engine.seen = some (180000000, 36000000)) ∧
     (let t := { ours with given := { ours.given with coords := .axis 0 162000000 } }
      let q := withE (fun e => { e with motion := .slewing, target := some t }) up
      Takes (st q) .a .limq ∧ q.engine.motion = .slewing ∧ q.engine.target = some t ∧
      t.given.coords.kind = .axis)) ∧
    Takes (st up) .a .mask ∧ up.limits.mask[35]? = some 36000000 ∧ Takes (st up) .a .zone ∧
    up.limits.zones[7]? = some Zone.blank :=
  ⟨takes_each .a .posq, by decide, takes_each .a .limq, by decide,
   ⟨takes_up rfl ⟨rfl, rfl, rfl⟩ ⟨rfl, rfl, rfl⟩, by decide,
    ⟨takes_up rfl ⟨rfl, rfl, rfl⟩ ⟨rfl, rfl, rfl⟩, by decide⟩, takes_up rfl ⟨rfl, rfl, rfl⟩ ⟨rfl, rfl, rfl⟩, by decide⟩,
   takes_each .a .mask, by decide, takes_each .a .zone, by decide⟩

theorem test_witness_ListPlanGuideQueries :
    Takes (st up) .a .qlst ∧ up.list.find 65535 = none ∧ Takes (st up) .a .trap ∧
    up.list.slots[3]? = some Slot.blank ∧ Takes (st up) .a .guid ∧ Takes (st up) .a .plan ∧ up.planner.pass = none ∧
    (let p := { listOf [entry 65535 brief] (clocked up) with planner := { pass := some (passOf false) } }
     Takes (st p) .a .qlst ∧ p.list.find 65535 = some (entry 65535 brief) ∧ Takes (st p) .a .plan ∧
     p.planner.pass = some (passOf false) ∧ p.clock.isSet = true) :=
  ⟨takes_each .a .qlst, by decide, takes_each .a .trap, by decide, takes_each .a .guid, takes_each .a .plan, by decide,
   takes_up rfl ⟨rfl, rfl, rfl⟩ ⟨rfl, rfl, rfl⟩, by decide, takes_up rfl ⟨rfl, rfl, rfl⟩ ⟨rfl, rfl, rfl⟩, by decide,
   by decide⟩

/-- A FOLLOWING record of the azimuth axis. -/
def followed : FaultRec :=
  { severity := .trip, source := .azAxis, reason := .following, first := .base 0, last := .base 0, count := 255,
    entry := none, az := none, el := none }

/-- A part whose Fault Table holds records at its lowest places, in their order. -/
def faulty (rs : List FaultRec) (p : Part) : Part :=
  { p with faults :=
    { recs := rs.map some ++ List.replicate (8 - rs.length) none, order := List.range rs.length, overflow := false } }

theorem test_witness_InputFaultLogStoreQueries :
    Takes (st up) .a .inpq ∧ Takes (st up) .a .alrt ∧ Takes (st up) .a .stor ∧ Takes (st up) .a .frec ∧
    up.faults.at_i 7 = none ∧
    (let p := { faulty [followed] up with log := { records := [RunRec.fresh 1 .goto .sky], next := 2 } }
     Takes (st p) .a .frec ∧ p.faults.at_i 0 = some followed ∧ Takes (st p) .a .rlog ∧
     p.log.find 1 = some (RunRec.fresh 1 .goto .sky) ∧ p.log.records.getLast? = some (RunRec.fresh 1 .goto .sky)) ∧
    Takes (st up) .a .rlog ∧ up.log.records = [] :=
  ⟨takes_each .a .inpq, takes_each .a .alrt, takes_each .a .stor, takes_each .a .frec, by decide,
   ⟨takes_up rfl ⟨rfl, rfl, rfl⟩ ⟨rfl, rfl, rfl⟩, by decide, takes_up rfl ⟨rfl, rfl, rfl⟩ ⟨rfl, rfl, rfl⟩, by decide⟩,
   takes_each .a .rlog, by decide⟩

theorem test_witness_LineMessages_queries :
    Takes (st up) .a .stat ∧ Takes (st up) .b .last ∧ up.line.last = none ∧ Takes (st up) .b .lock ∧
    (let m : LastMsg := { name := .known .goto, line := .a, cast := .broadcast, result := .state }
     let p := { up with line := { up.line with last := some m } }
     Answers p .a .last ∧ p.Noticed ∧ p.line.last = some m) :=
  ⟨takes_each .a .stat, takes_each .b .last, by decide, takes_each .b .lock,
   ⟨⟨rfl, rfl, rfl, rfl⟩, by decide, rfl, rfl⟩, ⟨rfl, rfl, rfl⟩, by decide⟩

theorem test_witness_TimeAndTrimSetTheClock :
    Takes (st up) .a .time ∧ up.runner.state = .idle ∧ up.clock.isSet = false ∧
    (let p := { tracks ours up with clock := (clocked up).clock }
     Takes (st p) .a .time ∧ p.clock.reading = some 1000000 ∧ p.runner.state = .idle ∧
     (p.engine.motion = .tracking → (-1000 : Int) ≤ 1001000 - 1000000 ∧ (1001000 : Int) - 1000000 ≤ 1000)) ∧
    (let p := clocked up
     Takes (st p) .a .trim ∧ p.runner.state = .idle ∧ p.clock.reading = some 1000000 ∧
     (Takes (st up) .a .trim ∧ up.clock.isSet = false ∧ (281474976710655 : Int) < 281474976710656) ∧
     ((-500 : Int) ≤ 1000500 - 1000000 ∧ (1000500 : Int) - 1000000 ≤ 500) ∧ (999499 : Int) - 1000000 < -500) ∧
    (let p := { notices (works .tracking brief Opts.none .observing) with clock := (clocked up).clock }
     Takes (st p) .a .time ∧ p.engine.motion = .tracking ∧ p.clock.reading = some 1000000 ∧
     (1000 : Int) < 1001001 - 1000000 ∧ p.runner.state = .observing ∧ p.ctxEntry = some (entry 1 brief) ∧
     (entry 1 brief).opts.giveUp = none ∧ p.onEntry = true) :=
  ⟨takes_each .a .time, by decide, by decide,
   ⟨takes_up rfl ⟨rfl, rfl, rfl⟩ ⟨rfl, rfl, rfl⟩, by decide +kernel, by decide, by decide⟩,
   ⟨takes_up rfl ⟨rfl, rfl, rfl⟩ ⟨rfl, rfl, rfl⟩, by decide, by decide +kernel,
    ⟨takes_each .a .trim, by decide, by decide⟩, by decide, by decide⟩,
   takes_up rfl ⟨rfl, rfl, rfl⟩ ⟨rfl, rfl, rfl⟩, by decide, by decide +kernel, by decide, by decide, by decide, by decide,
   by decide⟩

theorem test_witness_SiteAndTermsAreWritten :
    Takes (st up) .a .site ∧ up.power.writing = none ∧ Takes (st up) .a .mtrm ∧ up.model.pending = false ∧
    up.engine.motion ∈ [.unreferenced, .parked, .ready, .tripped, .dormant] := 
  ⟨takes_each .a .site, by decide, takes_each .a .mtrm, by decide, by decide⟩

theorem test_witness_ActivationAtOnceOrPending :
    (let p := { up with power := { up.power with writing := some (0, StoreImage.default) } }
     Takes (st p) .a .mact ∧ p.power.writing ≠ none) ∧
    Takes (st up) .a .mact ∧ up.power.writing = none ∧ up.model.pending = false ∧
    ¬up.engine.motion ∈ [.slewing, .settling, .tracking, .keyhole] ∧
    (let p := tracks ours up
     Takes (st p) .a .mact ∧ p.power.writing = none ∧ p.model.pending = false ∧
     p.engine.motion ∈ [.slewing, .settling, .tracking, .keyhole] ∧
     (let q := { p with model := { p.model with pending := true } }
      Takes (st q) .a .mact ∧ q.power.writing = none ∧ q.model.pending = true)) :=
  ⟨⟨takes_up rfl ⟨rfl, rfl, rfl⟩ ⟨rfl, rfl, rfl⟩, by decide⟩, takes_each .a .mact, by decide, by decide, by decide,
    takes_up rfl ⟨rfl, rfl, rfl⟩ ⟨rfl, rfl, rfl⟩, by decide, by decide,
   by decide, takes_up rfl ⟨rfl, rfl, rfl⟩ ⟨rfl, rfl, rfl⟩, by decide, by decide⟩

theorem test_witness_OffsetsAndAxisSettings :
    Takes (st up) .a .offs ∧ up.engine.motion ≠ .tracking ∧ Takes (st (tracks ours up)) .a .offs ∧
    (tracks ours up).engine.motion = .tracking ∧ Takes (st up) .a .axcf ∧ up.power.writing = none ∧
    up.engine.motion ∈ [.unreferenced, .parked, .ready, .tripped, .dormant] ∧
    (let c : AxisCfg := { up.engine.cfg with azLo := 0, elIndex := 325800000 }
     c.azLo < c.azHi ∧ c.elLo < c.elHi ∧ c.azLo ≤ c.parkAz ∧ c.parkAz ≤ c.azHi ∧ c.elLo ≤ c.stowEl ∧ c.stowEl ≤ c.elHi ∧
     up.engine.az.actual = some 0 ∧ up.engine.el.actual = some 162000000) ∧
    (∀ v : Int, let sets := [(axisSettings[0], v), (axisSettings[18], 325800000)]
      sets ≠ [] ∧ (∀ x ∈ sets, x.1 ∈ axisSettings) ∧ (sets.map fun x => x.1.name).Nodup) ∧
    (∀ sets : List (AxisSetting × Int), sets ≠ [] →
      [Field.num 0] ≠ sets.flatMap fun x => [.word x.1.name, .num x.2]) := by
  refine ⟨takes_each .a .offs, by decide, takes_up rfl ⟨rfl, rfl, rfl⟩ ⟨rfl, rfl, rfl⟩, by decide, takes_each .a .axcf,
    by decide, by decide, by decide +kernel, fun v => ⟨nofun, ?_, by simp [axisSettings]⟩, ?_⟩
  · intro x hx
    simp only [List.mem_cons, List.not_mem_nil, or_false] at hx
    obtain rfl | rfl := hx <;> exact List.getElem_mem _
  · intro sets h
    cases sets with
    | nil => exact absurd rfl h
    | cons x xs => simp

theorem test_witness_MaskAndZoneAreWritten :
    (let f : Int := 35999999
     f < 36000000 ∧ up.limits.mask[35]? = some 36000000 ∧ up.limits.mask[if 35 = 35 then 0 else 36]? = some 36000000) ∧
    Takes (st up) .a .mask ∧ up.power.writing = none ∧ 35 < up.limits.mask.length ∧ Takes (st up) .a .zone ∧
    up.limits.zones[7]? = some Zone.blank :=
  ⟨by decide, takes_each .a .mask, by decide, by decide, takes_each .a .zone, by decide⟩

theorem test_witness_GotoStartsASlew :
    let c : Coords := .axis (-972000000) 323640000
    let goal (m : Motion) (o : Origin) (n : Option Nat) : Part :=
      withE (fun e => { e with motion := m, target := some (aimed (asked o n)) }) up
    let banked := withE (fun e => { e with passage := some { entered := 0, exitAt := 0, exitAz := 0 } }) (goal .keyhole .goto (some 1))
    let worked := works .slewing brief Opts.none .acquiring
    (∀ p ∈ [up, inMotion .stopping, goal .slewing .goto (some 1), goal .settling .goto (some 1), goal .tracking .goto none,
        banked, runs .empty RunCtx.blank up, runs .waiting RunCtx.blank (goal .slewing .goto (some 1)),
        works .tracking brief Opts.none .observing, worked],
      Answers p .a .goto ∧ gotoInRange p.engine.cfg c = true ∧ p.countsTripped = false ∧ p.wind.hold = false ∧
      gotoDestination p ⟨c, .near, false⟩ = none ∧
      p.engine.motion ∈ [.ready, .stopping, .slewing, .settling, .tracking, .keyhole] ∧ p.engine.request = none ∧
      p.model.pending = false) ∧
    readGoto [.word "AXIS", .num (-972000000), .num 323640000] = some ⟨c, .near, false⟩ ∧ c.isSky = false ∧ up.log.Ok ∧
    (worked.runner.state.working = true ∧ worked.runner.ctx.record = some 1 ∧ worked.runner.ctx.id = some 1 ∧
     (worked.engine.target.map fun t => (t.given.record, t.given.origin, t.arrived)) = some (some 1, .list 1, false) ∧
     worked.engine.passage = none ∧ worked.log.records.map RunRec.seq = [1] ∧ worked.log.next = 2) := by
  refine ⟨fun p h => ?_, by decide, by decide, ⟨by decide, by decide, fun _ h => absurd h List.not_mem_nil⟩, by decide⟩
  repeat
    rcases List.mem_cons.1 h with rfl | h
    · exact ⟨⟨⟨rfl, rfl, rfl, rfl⟩, by decide, rfl, rfl⟩, by decide +kernel⟩
  exact absurd h List.not_mem_nil

theorem test_witness_GotoFormsAndRefusals :
    let c : Coords := .altaz 0 0
    readGoto [] = none ∧ (∀ s : State, s = st up → Takes s .a .goto) ∧
    gotoInRange up.engine.cfg (.axis 972000001 0) = false ∧
    readGoto [.word "AXIS", .num 972000001, .num 0] = some ⟨.axis 972000001 0, .near, false⟩ ∧
    readGoto [.word "ALTAZ", .num 0, .num 0] = some ⟨c, .near, false⟩ ∧ gotoInRange up.engine.cfg c = true ∧
    (aimAt up c up.siteNow).axes.el < up.engine.cfg.elLo ∧
    (let narrow := withE (fun e => { e with cfg := { e.cfg with azLo := 1, azHi := 35999999 } }) up
     let zone : Zone := { azMin := -1, azMax := 0, elMin := 0, elMax := 200000000, on := true }
     let fenced : Part := { up with limits := { up.limits with zones := [zone] } }
     let masked : Part := { up with limits := { up.limits with mask := List.replicate 36 180000001 } }
     let d : Coords := .altaz 0 180000000
     readGoto [.word "ALTAZ", .num 0, .num 180000000] = some ⟨d, .near, false⟩ ∧ gotoInRange up.engine.cfg d = true ∧
     (∀ p ∈ [narrow, fenced, masked, up], Takes (st p) .a .goto) ∧ gotoDestination narrow ⟨d, .near, false⟩ = some .range ∧
     gotoDestination fenced ⟨d, .near, false⟩ = some .zone ∧ gotoDestination masked ⟨d, .near, false⟩ = some .low ∧
     gotoDestination up ⟨d, .near, false⟩ = none) ∧
    (inMotion .waking).engine.motion ∈ [.unreferenced, .waking, .referencing] ∧
    Takes (st (inMotion .waking)) .a .goto ∧ (Coords.sky 0 0 none).isSky = true ∧ up.clock.isSet = false ∧
    Takes (st (faulty [followed] up)) .a .goto ∧ (faulty [followed] up).countsTripped = true ∧
    (let p := { up with wind := { up.wind with hold := true } }
     Takes (st p) .a .goto ∧ p.countsTripped = false ∧ p.wind.hold = true) ∧
    Takes (st (inMotion .parked)) .a .goto ∧ (inMotion .parked).engine.motion ∈ [.parked, .dormant, .unparking, .parking] :=
  ⟨rfl, fun _ h => h ▸ takes_each .a .goto, by decide, by decide, by decide, by decide, by decide +kernel,
   ⟨by decide, by decide, fun p h => by
     simp only [List.mem_cons, List.not_mem_nil, or_false] at h
     rcases h with rfl | rfl | rfl | rfl <;> exact takes_up rfl ⟨rfl, rfl, rfl⟩ ⟨rfl, rfl, rfl⟩,
    by decide +kernel, by decide +kernel, by decide +kernel, by decide +kernel⟩, by decide,
   takes_up rfl ⟨rfl, rfl, rfl⟩ ⟨rfl, rfl, rfl⟩, by decide, by decide, takes_up rfl ⟨rfl, rfl, rfl⟩ ⟨rfl, rfl, rfl⟩, by decide,
   ⟨takes_up rfl ⟨rfl, rfl, rfl⟩ ⟨rfl, rfl, rfl⟩, by decide, by decide⟩, takes_up rfl ⟨rfl, rfl, rfl⟩ ⟨rfl, rfl, rfl⟩, by decide⟩

/-- A part whose runner acquires entry 1, already tracked. -/
def worked : Part := works .tracking brief Opts.none .acquiring

/-- A part that waits with its list's head, entry 1, its intercept fired or not, before the start instant 5,000 s. -/
def waiting1 (fired : Bool) : Part :=
  runs .waiting { RunCtx.blank with id := some 1, fired := fired, startAt := some 5000000, estimate := some 5000 }
    (listOf [entry 1 brief] (clocked up))

/-- The same part stopped at entry 1 by an intercept. -/
def stopped1 : Part := runs .intercept { RunCtx.blank with id := some 1, fired := true } (listOf [entry 1 brief] (clocked up))

/-- A part that has just been told to search for its references. -/
def searching : Part :=
  withE (fun e => { e with
    motion := .referencing
    az := { AxisState.powerOn with velocity := fx, search := some { dir := .pos, reversed := false, found := false } }
    el := { AxisState.powerOn with velocity := -fx, search := some { dir := .neg, reversed := true, found := false } } }) up

theorem test_witness_StopByState :
    (Takes (st up) .a .stop ∧ up.runner.state.running = false ∧ up.engine.motion = .ready) ∧
    (∀ v ∈ ([0, -fx] : List Int), ∀ m ∈ ([.slewing, .settling, .tracking, .keyhole] : List Motion),
      let p := withE (fun e => { e with motion := m, az := { e.az with velocity := v } }) (tracks ours up)
      Takes (st p) .a .stop ∧ p.runner.state.running = false ∧ p.engine.target = some ours ∧ p.model.pending = false ∧
      p.wind.hold = false) ∧
    (ours.given.origin = .goto ∧ ours.given.record = some 1) ∧
    (let p := inMotion .parking
     Takes (st p) .a .stop ∧ p.engine.target = none ∧ p.engine.passage = none) ∧
    (Takes (st searching) .a .stop ∧ searching.engine.motion = .referencing ∧ searching.engine.az.velocity ≠ 0 ∧
     Takes (st (inMotion .referencing)) .a .stop ∧ (inMotion .referencing).engine.az.velocity = 0 ∧
     (inMotion .referencing).engine.el.velocity = 0) ∧
    (∀ v ∈ ([0, fx] : List Int),
      let p := withE (fun e => { e with
        motion := .backout, backout := some { axis := .el, dir := .neg, start := 0 }, el := { e.el with velocity := v } }) up
      Takes (st p) .a .stop ∧ p.engine.motion = .backout) ∧
    (∀ s ∈ ([.empty, .waiting, .intercept] : List RunState),
      let p := runs s RunCtx.blank up
      let q := runs s RunCtx.blank (tracks (aimed (asked (.list 1) none)) up)
      Takes (st p) .a .stop ∧ p.engine.motion = .ready ∧ Takes (st q) .a .stop ∧ q.engine.motion = .tracking) ∧
    (let w := entry 1 brief
     let p := withE (fun e => { e with motion := .unparking, target := none }) worked
     Takes (st worked) .a .stop ∧ worked.runner.state.working = true ∧ worked.runner.ctx.record = some 1 ∧
     worked.runner.ctx.id = some w.id ∧ worked.list.find w.id = some w ∧ worked.engine.passage = none ∧
     (worked.engine.target.map fun t => (t.given.record, t.given.origin)) = some (some 1, .list w.id) ∧
     Takes (st p) .a .stop ∧ p.engine.target = none) ∧
    (let p := withE (fun e => { e with halting := true }) searching
     p.power.powered = true ∧ p.Noticed ∧ p.intervalDue = true ∧ p.engine.halting = true ∧ p.engine.encodersOn = true ∧
     p.engine.az.referenced = false ∧ 0 < p.engine.cfg.accel ∧ broughtTo p.engine.cfg.accel p.engine.az.velocity 0 = 0) := by
  refine ⟨⟨takes_each .a .stop, by decide, by decide⟩, ?_, by decide,
    ⟨takes_up rfl ⟨rfl, rfl, rfl⟩ ⟨rfl, rfl, rfl⟩, by decide⟩,
    ⟨takes_up rfl ⟨rfl, rfl, rfl⟩ ⟨rfl, rfl, rfl⟩, by decide, by decide, takes_up rfl ⟨rfl, rfl, rfl⟩ ⟨rfl, rfl, rfl⟩, by decide⟩,
    ?_, ?_, ⟨takes_up rfl ⟨rfl, rfl, rfl⟩ ⟨rfl, rfl, rfl⟩, by decide, by decide, by decide, by decide, by decide, by decide,
    takes_up rfl ⟨rfl, rfl, rfl⟩ ⟨rfl, rfl, rfl⟩, by decide⟩, by decide, ⟨rfl, rfl, rfl⟩, by decide⟩
  · intro v hv m hm
    refine ⟨takes_up rfl ⟨rfl, rfl, rfl⟩ ⟨?_, ?_, rfl⟩, rfl, rfl, rfl, rfl⟩ <;> cases m <;> rfl
  · intro v hv
    exact ⟨takes_up rfl ⟨rfl, rfl, rfl⟩ ⟨rfl, rfl, rfl⟩, rfl⟩
  · intro s hs
    simp only [List.mem_cons, List.not_mem_nil, or_false] at hs
    rcases hs with rfl | rfl | rfl <;>
    exact ⟨takes_up rfl ⟨rfl, rfl, rfl⟩ ⟨rfl, rfl, rfl⟩, rfl, takes_up rfl ⟨rfl, rfl, rfl⟩ ⟨rfl, rfl, rfl⟩, rfl⟩

/-- R36, R37, R117: a STOP of the worked entry's track at rest is READY at once, one in motion STOPPING, and closes it STOPPED. -/
theorem test_stop_of_a_worked_entry :
    (let q := after (.stop own []) worked
     q.engine.motion = .stopping ∧ q.runner.state = .held .stop ∧ (q.log.find 1).bind RunRec.outcome = some .stopped) ∧
    (after (.stop own []) (withE (fun e => { e with az := { e.az with velocity := 0 } }) worked)).engine.motion = .ready := by
  decide +kernel

theorem test_witness_ParkUnparkDormWake_targets :
    let goal (m : Motion) : Part := withE (fun e => { e with motion := m, target := some ours }) up
    (∀ m ∈ ([.slewing, .settling, .tracking, .keyhole] : List Motion),
      Takes (st (goal m)) .a .park ∧ Takes (st (goal m)) .a .unpk ∧ (goal m).engine.target = some ours ∧
      (goal m).runner.state = .idle ∧ (goal m).wind.hold = false ∧ (goal m).countsTripped = false) ∧
    (ours.given.origin = .goto ∧ ours.given.record = some 1 ∧ up.model.pending = false) ∧
    (let p := works .tracking brief Opts.none .acquiring
     let w := entry 1 brief
     Takes (st p) .a .park ∧ p.runner.state.working = true ∧ p.runner.ctx.record = some 1 ∧ p.runner.ctx.id = some w.id ∧
     p.list.find w.id = some w ∧ w.body ≠ .park ∧ p.engine.motion ∈ [.slewing, .settling, .tracking] ∧
     (p.engine.target.map fun t => (t.given.record, t.given.origin)) = some (some 1, .list w.id) ∧
     p.engine.passage = none ∧ p.model.pending = false) := by
  refine ⟨fun m h => ?_, by decide, takes_up rfl ⟨rfl, rfl, rfl⟩ ⟨rfl, rfl, rfl⟩, by decide⟩
  repeat
    rcases List.mem_cons.1 h with rfl | h
    · exact ⟨takes_up rfl ⟨rfl, rfl, rfl⟩ ⟨rfl, rfl, rfl⟩, takes_up rfl ⟨rfl, rfl, rfl⟩ ⟨rfl, rfl, rfl⟩, by decide⟩
  exact absurd h List.not_mem_nil

theorem test_witness_ParkUnparkDormWake :
    (∀ m, Takes (st up) .a m) ∧ up.runner.state = .idle ∧ up.engine.target = none ∧ up.engine.passage = none ∧
    up.model.pending = false ∧ up.engine.motion = .ready ∧
    (∀ m ∈ ([.parking, .parked, .dormant, .unreferenced, .tripped, .backout, .stowing, .unparking, .waking] : List Motion),
      Takes (st (inMotion m)) .a .park ∧ Takes (st (inMotion m)) .a .unpk ∧ Takes (st (inMotion m)) .a .dorm ∧
      Takes (st (inMotion m)) .a .wake ∧ (inMotion m).engine.motion = m) ∧
    (inMotion .parked).wind.hold = false ∧ (inMotion .parked).countsTripped = false ∧
    (faulty [followed] up).countsTripped = true ∧ Takes (st (faulty [followed] up)) .a .unpk ∧
    Takes (st { up with wind := { up.wind with hold := true } }) .a .unpk ∧
    (inMotion .parked).runner.state.atRest = true := by
  refine ⟨takes_each .a, by decide, by decide, by decide, by decide, by decide, ?_, by decide, by decide, by decide,
    takes_up rfl ⟨rfl, rfl, rfl⟩ ⟨rfl, rfl, rfl⟩, takes_up rfl ⟨rfl, rfl, rfl⟩ ⟨rfl, rfl, rfl⟩, by decide⟩
  intro m h
  have hn : (inMotion m).Noticed := by
    refine ⟨?_, ?_, rfl⟩ <;> cases m <;> rfl
  exact ⟨takes_up rfl ⟨rfl, rfl, rfl⟩ hn, takes_up rfl ⟨rfl, rfl, rfl⟩ hn, takes_up rfl ⟨rfl, rfl, rfl⟩ hn,
    takes_up rfl ⟨rfl, rfl, rfl⟩ hn, rfl⟩

theorem test_witness_ReferenceRunAndBackout :
    (let p := inMotion .unreferenced
     Takes (st p) .a .refr ∧ p.wind.hold = false ∧ p.active .estop = false ∧ p.faults.hasTrip = false ∧
     p.engine.motion = .unreferenced ∧ (Side.pos = .neg ↔ p.active .wrapSide = true) ∧
     Takes (st (raised .wrapSide p)) .a .refr ∧ (Side.neg = .neg ↔ (raised .wrapSide p).active .wrapSide = true)) ∧
    (let p := raised .azFinPos (inMotion .tripped)
     Takes (st p) .a .back ∧ p.engine.motion = .tripped ∧ p.active .estop = false ∧ p.active .azFinPos = true ∧
     p.active .azFinNeg = false ∧ p.engine.az.referenced = true ∧
     Takes (st (raised .estop p)) .a .back ∧ (raised .estop p).active .estop = true ∧
     Takes (st (raised .azFinNeg p)) .a .back ∧ (raised .azFinNeg p).active .azFinPos = true ∧
     (raised .azFinNeg p).active .azFinNeg = true ∧ p.active .elFinHigh = p.active .elFinLow) ∧
    (let p := raised .elFinLow (withE (fun e => { e with el := { e.el with referenced := false, actual := none } })
       (inMotion .parked))
     Takes (st p) .a .back ∧ p.engine.motion = .parked ∧ p.active .estop = false ∧ p.active .elFinLow = true ∧
     p.active .elFinHigh = false ∧ p.engine.el.referenced = false ∧ p.engine.el.actual = none) ∧
    Takes (st up) .a .back ∧ up.engine.motion = .ready ∧
    searching.power.powered = true ∧ searching.Noticed ∧ searching.engine.motion = .referencing ∧
    searching.engine.halting = false ∧
    searching.engine.az.search = some { dir := .pos, reversed := false, found := false } ∧
    searching.engine.az.velocity ≠ 0 ∧
    searching.engine.el.search = some { dir := .neg, reversed := true, found := false } ∧
    searching.engine.el.velocity ≠ 0 ∧ searching.intervalDue = true ∧ searching.engine.az.referenced = false ∧
    searching.wind.hold = false ∧ searching.engine.request = none ∧ searching.model.pending = false ∧
    searching.power.restarting = false ∧ searching.engine.encodersOn = true ∧ 0 < searching.engine.cfg.accel ∧
    (let found (x : AxisState) : AxisState :=
       { x with velocity := 0, search := some { dir := .pos, reversed := false, found := true } }
     let p := withE (fun e => e.mapAxes found) searching
     p.Noticed ∧ (after (.demandInterval 0 0) p).engine.motion = .ready) :=
  ⟨⟨takes_up rfl ⟨rfl, rfl, rfl⟩ ⟨rfl, rfl, rfl⟩, by decide, by decide, by decide, by decide, by decide,
    takes_up rfl ⟨rfl, rfl, rfl⟩ ⟨rfl, rfl, rfl⟩, by decide⟩,
   ⟨takes_up rfl ⟨rfl, rfl, rfl⟩ ⟨rfl, rfl, rfl⟩, by decide, by decide, by decide, by decide, by decide,
    takes_up rfl ⟨rfl, rfl, rfl⟩ ⟨rfl, rfl, rfl⟩, by decide, takes_up rfl ⟨rfl, rfl, rfl⟩ ⟨rfl, rfl, rfl⟩, by decide⟩,
   ⟨takes_up rfl ⟨rfl, rfl, rfl⟩ ⟨rfl, rfl, rfl⟩, by decide⟩, takes_each .a .back, by decide, by decide,
   ⟨rfl, rfl, rfl⟩, by decide, by decide, by decide, by decide, by decide, by decide, by decide, by decide, by decide,
   by decide, by decide, by decide, by decide, by decide, ⟨rfl, rfl, rfl⟩, by decide +kernel⟩

theorem test_witness_StowAndWindSettings :
    (∀ m ∈ ([.unreferenced, .referencing, .parked, .unparking, .stopping, .parking, .tripped, .backout] : List Motion),
      let p := inMotion m
      Takes (st p) .a .stow ∧ p.wind.hold = false ∧ 0 < p.wind.release ∧ p.runner.state.running = false ∧
      [Motion.ready, .slewing, .settling, .tracking, .keyhole].contains p.engine.motion = false) ∧
    (let p := runs .waiting RunCtx.blank (inMotion .parking)
     Takes (st p) .a .stow ∧ p.runner.state.running = true ∧ p.runner.state.working = false) ∧
    (Takes (st up) .a .stow ∧ up.engine.motion = .ready ∧ up.engine.target = none ∧ up.engine.passage = none) ∧
    (let r := RunRec.fresh 1 .goto .altaz
     let p := { tracks ours up with log := { records := [r], next := 2 } }
     let k : Passage := { entered := 0, exitAt := 0, exitAz := 0 }
     let q := withE (fun e => { e with motion := .keyhole, passage := some k }) p
     Takes (st p) .a .stow ∧ Takes (st q) .a .stow ∧ q.engine.passage = some k ∧ p.engine.target = some ours ∧
     ours.given.origin = .goto ∧ ours.given.record = some 1 ∧ p.log.find 1 = some r ∧ r.isOpen = true ∧
     p.runner.state.working = false) ∧
    (∀ m ∈ ([.slewing, .settling, .tracking] : List Motion),
      let p := works m brief Opts.none .acquiring
      Takes (st p) .a .stow ∧ p.wind.hold = false ∧ p.runner.state.working = true ∧ p.parkCurrent = false ∧
      p.runner.ctx.id = some 1 ∧ p.runner.ctx.record = some 1 ∧
      (p.engine.target.map fun t => t.given.origin) = some (.list 1) ∧ p.engine.passage = none) ∧
    (let q := { inMotion .stowed with wind := { up.wind with hold := true, release := 1 } }
     Takes (st q) .a .stow ∧ 0 < q.wind.release ∧ q.wind.hold = true ∧ q.active .wind = false ∧
     Takes (st (raised .wind q)) .a .stow ∧ (raised .wind q).active .wind = true) := by
  refine ⟨fun m h => ?_, ⟨takes_up rfl ⟨rfl, rfl, rfl⟩ ⟨rfl, rfl, rfl⟩, by decide⟩, ⟨takes_each .a .stow, by decide⟩,
    ⟨takes_up rfl ⟨rfl, rfl, rfl⟩ ⟨rfl, rfl, rfl⟩, takes_up rfl ⟨rfl, rfl, rfl⟩ ⟨rfl, rfl, rfl⟩, by decide⟩,
    fun m h => ?_,
    ⟨takes_up rfl ⟨rfl, rfl, rfl⟩ ⟨rfl, rfl, rfl⟩, by decide, by decide, by decide,
     takes_up rfl ⟨rfl, rfl, rfl⟩ ⟨rfl, rfl, rfl⟩, by decide⟩⟩
  all_goals
    repeat
      rcases List.mem_cons.1 h with rfl | h
      · exact ⟨takes_up rfl ⟨rfl, rfl, rfl⟩ ⟨rfl, rfl, rfl⟩, by decide⟩
    exact absurd h List.not_mem_nil

/-- A part under a wind hold whose timer has run since 0, in a motion state, the runner made HELD by the hold. -/
def windy (m : Motion) (release : Nat) : Part :=
  let p := atBase 1000 (withE (fun e => { e with motion := m }) (runs (.held .wind) RunCtx.blank (clocked up)))
  { p with wind := { hold := true, timer := some 0, release := release, autoResume := true }
           runner := { p.runner with windResume := true } }

theorem test_witness_WindHoldStartsAndEnds_ends :
    let head (p : Part) : Part := listOf [entry 1 .mark] p
    (∀ p ∈ [windy .stowed 0, windy .stowing 0, windy .parked 0, head (windy .stowed 0), windy .stowed 1000],
      (turning .wind p).Recognises .wind false ∧ (turning .wind p).Noticed ∧ p.wind.hold = true ∧
      p.power.restarting = false ∧ p.engine.request = none ∧ p.engine.passage = none) ∧
    ((turning .wind up).Recognises .wind false ∧ (turning .wind up).Noticed ∧ up.wind.hold = false) ∧
    (∀ p ∈ [windy .stowed 1001, windy .stowed 1000, windy .stowing 1000, windy .parking 1000, head (windy .stowing 1000)],
      p.power.powered = true ∧ p.Noticed ∧ p.wind.hold = true ∧ p.wind.timer = some 0 ∧ p.power.restarting = false ∧
      p.engine.request = none ∧ p.engine.passage = none) ∧
    (windy .stowed 1001).clock.timeBase < 0 + 1001 ∧ 0 + 1000 ≤ (windy .stowed 1000).clock.timeBase ∧
    (windy .stowed 1000).holdOver.resumes ∧ (windy .stowing 1000).holdOver.resumes ∧
    ¬(windy .parking 1000).holdOver.resumes ∧
    (after .windHoldEnd (windy .stowed 1001)).engine.motion = .stowed ∧
    (after .windHoldEnd (head (windy .stowing 1000))).engine.motion = .ready ∧
    (after .windHoldEnd (head (windy .stowed 1000))).alerts.mark = true := by
  refine ⟨fun p h => ?_, ⟨⟨rfl, rfl, rfl, by decide, .inr rfl, rfl⟩, ⟨rfl, rfl, rfl⟩, rfl⟩, fun p h => ?_, by decide,
    by decide, ⟨rfl, rfl, rfl, rfl, by decide, by decide⟩, ⟨rfl, rfl, rfl, rfl, by decide, by decide⟩,
    fun h => absurd h.2.2.2.2.1 (by decide), by decide +kernel⟩
  · repeat
      rcases List.mem_cons.1 h with rfl | h
      · exact ⟨⟨rfl, rfl, rfl, by decide, .inr rfl, rfl⟩, ⟨rfl, rfl, rfl⟩, rfl, rfl, rfl, rfl⟩
    exact absurd h List.not_mem_nil
  · repeat
      rcases List.mem_cons.1 h with rfl | h
      · exact ⟨rfl, ⟨rfl, rfl, rfl⟩, rfl, rfl, rfl, rfl, rfl⟩
    exact absurd h List.not_mem_nil

/-- A worked entry whose absence of DOME has been timed since 0, at 1,000 ms. -/
def dark (m : Motion) (v : Int) : Part :=
  let p := atBase 1000 (withE (fun e => { e with az := { e.az with velocity := v } }) (works m brief Opts.none .acquiring))
  { p with runner := { p.runner with ctx := { p.runner.ctx with domeFrom := some 0 } } }

theorem test_witness_StowAndWindSettings_released :
    (∀ m ∈ ([.ready, .parked, .stowed] : List Motion),
      let q := inMotion m
      let p := { q with wind := { q.wind with release := 0 } }
      Takes (st p) .a .stow ∧ p.wind.hold = false ∧ p.active .wind = false ∧ p.wind.release = 0 ∧
      (raised .wind p).active .wind = true ∧ Takes (st (raised .wind p)) .a .stow ∧ p.engine.request = none ∧
      p.engine.passage = none) ∧
    (let q := runs .waiting RunCtx.blank (clocked up)
     let p := { q with wind := { q.wind with release := 0 } }
     Takes (st p) .a .stow ∧ p.runner.state.running = true ∧ p.runner.state.working = false ∧ p.wind.autoResume = true) ∧
    (∀ m ∈ ([.stowing, .stowed, .parking, .tripped] : List Motion), ∀ r ∈ [0, 1000, 1001],
      let p := windy m r
      Takes (st p) .a .stow ∧ Takes (st p) .a .wcfg ∧ p.wind.hold = true ∧ p.active .wind = false ∧
      p.wind.timer = some 0 ∧ p.engine.request = none ∧ p.engine.passage = none ∧ p.runner.state.working = false ∧
      p.power.writing = none) := by
  refine ⟨fun m h => ?_, ⟨takes_up rfl ⟨rfl, rfl, rfl⟩ ⟨rfl, rfl, rfl⟩, by decide⟩, fun m h r _ => ?_⟩
  · repeat
      rcases List.mem_cons.1 h with rfl | h
      · exact ⟨takes_up rfl ⟨rfl, rfl, rfl⟩ ⟨rfl, rfl, rfl⟩, by decide, by decide, rfl, by decide,
          takes_up rfl ⟨rfl, rfl, rfl⟩ ⟨rfl, rfl, rfl⟩, rfl, rfl⟩
    exact absurd h List.not_mem_nil
  · repeat
      rcases List.mem_cons.1 h with rfl | h
      · exact ⟨takes_up rfl ⟨rfl, rfl, rfl⟩ ⟨rfl, rfl, rfl⟩, takes_up rfl ⟨rfl, rfl, rfl⟩ ⟨rfl, rfl, rfl⟩, rfl, rfl, rfl,
          rfl, rfl, rfl, rfl⟩
    exact absurd h List.not_mem_nil

theorem test_witness_StowAndWindSettings_resumed :
    (windy .stowed 1000).holdOver.resumes ∧ (windy .stowing 1000).holdOver.resumes ∧
    ¬(windy .parking 1000).holdOver.resumes ∧
    (let p := listOf [entry 1 brief] (windy .stowed 1000)
     p.holdOver.resumes ∧ p.holdOver.startingUp.part.list.entries = [entry 1 brief]) := by
  refine ⟨⟨rfl, rfl, rfl, rfl, by decide, by decide⟩, ⟨rfl, rfl, rfl, rfl, by decide, by decide⟩,
    fun h => absurd h.2.2.2.2.1 (by decide), ⟨rfl, rfl, rfl, rfl, by decide, by decide⟩, rfl⟩

/-- R152, R153: a release time that a running timer has just reached ends the hold; one of 1 ms more does not. -/
theorem test_wcfg_ends_a_hold :
    (let q := after (.wcfg own [.word "RELEASE", .num 1000]) (windy .stowed 5000)
     q.wind.hold = false ∧ q.engine.motion = .ready ∧ q.runner.state = .empty) ∧
    (let q := after (.wcfg own [.word "RELEASE", .num 1001]) (windy .stowed 5000)
     q.wind.hold = true ∧ q.engine.motion = .stowed) := by decide +kernel

theorem test_witness_StowAndWindSettings_settings :
    Takes (st up) .a .wcfg ∧ up.power.writing = none ∧ up.wind.hold = false ∧
    (let p := { up with power := { up.power with writing := some (0, StoreImage.default) } }
     Takes (st p) .a .wcfg ∧ p.power.writing ≠ none) ∧
    (let r : List Field := [.word "RELEASE", .num 1000]
     let a : List Field := [.word "AUTORES", .word "ON"]
     let d : List Field := [.word "DOMEWAIT", .num 600000]
     [d, r, a].Perm [r, a, d] ∧ [a, r].Perm [r, a]) ∧
    (∀ m ∈ ([.slewing, .settling, .tracking] : List Motion), ∀ v ∈ [0, fx],
      let p := dark m v
      Takes (st p) .a .wcfg ∧ p.runner.state.working = true ∧ p.runner.ctx.domeFrom = some 0 ∧ p.wind.hold = false ∧
      p.runner.ctx.id = some 1 ∧ p.runner.ctx.record = some 1 ∧ p.power.writing = none ∧
      (p.engine.target.map fun t => (t.given.origin, t.given.record)) = some (.list 1, some 1) ∧
      p.engine.passage = none ∧ (0 + (1000 : Nat) ≤ p.clock.timeBase ∧ ¬0 + (1001 : Nat) ≤ p.clock.timeBase)) := by
  refine ⟨takes_each .a .wcfg, by decide, by decide, ⟨takes_up rfl ⟨rfl, rfl, rfl⟩ ⟨rfl, rfl, rfl⟩, by decide⟩, by decide,
    fun m h v _ => ?_⟩
  repeat
    rcases List.mem_cons.1 h with rfl | h
    · exact ⟨takes_up rfl ⟨rfl, rfl, rfl⟩ ⟨rfl, rfl, rfl⟩, rfl, rfl, rfl, rfl, rfl, rfl, rfl, rfl, Nat.le_refl 1000,
        Nat.not_succ_le_self 1000⟩
  exact absurd h List.not_mem_nil

theorem test_witness_StoreWritesBeginAndEnd :
    Takes (st up) .a .stor ∧ up.power.writing = none ∧ up.power.powered = true ∧ up.Noticed ∧
    (let p := { up with power := { up.power with writing := some (0, StoreImage.default) } }
     Takes (st p) .a .stor ∧ p.power.writing = some (0, StoreImage.default) ∧ p.power.powered = true ∧ p.Noticed) :=
  ⟨takes_each .a .stor, by decide, by decide, ⟨rfl, rfl, rfl⟩, takes_up rfl ⟨rfl, rfl, rfl⟩ ⟨rfl, rfl, rfl⟩, by decide,
   by decide, ⟨rfl, rfl, rfl⟩⟩

/-- A list of 96 MARK entries with the ids 1 to 96. -/
def full : Part := listOf ((List.range 96).map fun n => entry (n + 1) .mark) up

theorem test_witness_EntriesAreAdded :
    Takes (st up) .a .qadd ∧ up.list.draft = none ∧ up.list.find 65535 = none ∧ up.list.entries.length < 96 ∧
    up.list.current = none ∧ azInside up.engine.cfg (-972000000) = true ∧ elInside up.engine.cfg 18000000 = true ∧
    Takes (st worked) .a .qadd ∧ worked.list.draft = none ∧ worked.list.find 1 ≠ none ∧ worked.list.find 7 = none ∧
    worked.list.current = some 1 ∧ worked.list.entries = entry 1 brief :: [] ∧ worked.runner.state.working = true ∧
    worked.findsHead = false ∧
    Takes (st full) .a .qadd ∧ full.list.find 97 = none ∧ 96 ≤ full.list.entries.length ∧
    Takes (st (waiting1 false)) .a .qadd ∧ (waiting1 false).findsHead = false ∧
    (let p := listOf [entry 7 .mark, entry 1 brief] (waiting1 false)
     p.findsHead = true ∧ p.runner.holdAfter = false) ∧
    (let p := listOf [entry 7 .mark] (runs .empty RunCtx.blank up)
     Takes (st p) .a .qadd ∧ p.findsHead = true ∧ p.runner.holdAfter = false) :=
  ⟨takes_each .a .qadd, by decide, by decide, by decide, by decide, by decide, by decide,
   takes_up rfl ⟨rfl, rfl, rfl⟩ ⟨rfl, rfl, rfl⟩, by decide, by decide, by decide, by decide, by decide, by decide, by decide,
   takes_up rfl ⟨rfl, rfl, rfl⟩ ⟨rfl, rfl, rfl⟩, by decide +kernel, by decide +kernel,
   takes_up rfl ⟨rfl, rfl, rfl⟩ ⟨rfl, rfl, rfl⟩, by decide, by decide,
   takes_up rfl ⟨rfl, rfl, rfl⟩ ⟨rfl, rfl, rfl⟩, by decide⟩

/-- R82, R102: NEXT behind the entry being worked is position 2; before the head of a wait it is taken up at once. -/
theorem test_next_by_runner_state :
    (let q := after (.qadd own [.num 7, .word "MARK", .word "NEXT"]) worked
     q.list.entries.map Entry.id = [1, 7] ∧ q.runner.state = .acquiring) ∧
    (let q := after (.qadd own [.num 7, .word "MARK", .word "HOLD", .word "NEXT"]) (waiting1 false)
     q.list.entries.map Entry.id = [1] ∧ q.runner.state = .held .mark) := by decide +kernel

theorem test_witness_DraftsAndSubstitutions :
    let d : Draft := { id := 1, verb := .add, body := .sky 0 0 1000, opts := Opts.none, next := false }
    let p := { up with list := { up.list with draft := some d } }
    Takes (st up) .a .qadd ∧ up.list.draft = none ∧
    Takes (st p) .a .qadd ∧ p.list.draft = some d ∧ p.list.find 1 = none ∧
    p.list.entries.length < 96 ∧ Takes (st up) .a .qsub ∧ up.list.find 1 = none ∧
    (Takes (st worked) .a .qsub ∧ worked.runner.state.working = true ∧ worked.list.draft = none ∧
     worked.list.find 1 ≠ none ∧ worked.list.current = some 1) ∧
    (Takes (st (listOf [entry 7 brief] up)) .a .qsub ∧ (listOf [entry 7 brief] up).list.find 7 ≠ none ∧
     (listOf [entry 7 brief] up).list.current ≠ some 7 ∧ up.runner.state ≠ .waiting) ∧
    (Takes (st stopped1) .a .qsub ∧ stopped1.runner.state = .intercept ∧ stopped1.list.find 1 ≠ none ∧
     stopped1.list.current ≠ some 1) ∧
    (Takes (st (waiting1 false)) .a .qsub ∧ (waiting1 false).runner.state = .waiting ∧
     (waiting1 false).list.entries = [entry 1 brief] ∧ (waiting1 false).runner.holdAfter = false ∧
     (waiting1 false).runner.ctx = { RunCtx.blank with id := some 1, startAt := some 5000000, estimate := some 5000 }) ∧
    (Takes (st (waiting1 true)) .a .qsub ∧ (waiting1 true).list.current = none ∧ (waiting1 true).runner.ctx.fired = true ∧
     (waiting1 true).list.entries = [entry 1 brief] ∧ (waiting1 true).log.records = [] ∧ (waiting1 true).log.next = 1) :=
  ⟨takes_each .a .qadd, by decide, takes_up rfl ⟨rfl, rfl, rfl⟩ ⟨rfl, rfl, rfl⟩, by decide, by decide,
   by decide, takes_each .a .qsub, by decide, ⟨takes_up rfl ⟨rfl, rfl, rfl⟩ ⟨rfl, rfl, rfl⟩, by decide⟩,
   ⟨takes_up rfl ⟨rfl, rfl, rfl⟩ ⟨rfl, rfl, rfl⟩, by decide⟩, ⟨takes_up rfl ⟨rfl, rfl, rfl⟩ ⟨rfl, rfl, rfl⟩, by decide⟩,
   ⟨takes_up rfl ⟨rfl, rfl, rfl⟩ ⟨rfl, rfl, rfl⟩, by decide⟩, takes_up rfl ⟨rfl, rfl, rfl⟩ ⟨rfl, rfl, rfl⟩, by decide⟩

/-- R102: QSUB of the head in WAITING decides it afresh; in INTERCEPT it waits for the QRES. -/
theorem test_sub_of_the_head :
    (after (.qsub own [.num 1, .word "MARK", .word "HOLD"]) (waiting1 false)).runner.state = .held .mark ∧
    (after (.qsub own [.num 1, .word "MARK", .word "HOLD"]) stopped1).runner.state = .intercept := by decide +kernel

theorem test_witness_EntriesAreDeleted :
    Takes (st up) .a .qdel ∧ up.list.find 1 = none ∧
    Takes (st worked) .a .qdel ∧ worked.runner.state.working = true ∧ worked.list.find 1 ≠ none ∧
    worked.list.current = some 1 ∧ worked.findsHead = false ∧
    Takes (st full) .a .qdel ∧ full.list.find 96 ≠ none ∧ full.list.current ≠ some 96 ∧ full.findsHead = false ∧
    (∀ p ∈ [waiting1 false, stopped1], Takes (st p) .a .qdel ∧ p.list.find 1 ≠ none ∧ p.list.current ≠ some 1 ∧
      (listOf [] p).findsHead = true ∧ (listOf [] p).runner.holdAfter = false) := by
  refine ⟨takes_each .a .qdel, by decide, takes_up rfl ⟨rfl, rfl, rfl⟩ ⟨rfl, rfl, rfl⟩, by decide, by decide, by decide,
    by decide, takes_up rfl ⟨rfl, rfl, rfl⟩ ⟨rfl, rfl, rfl⟩, by decide +kernel, by decide, by decide, fun p h => ?_⟩
  repeat
    rcases List.mem_cons.1 h with rfl | h
    · exact ⟨takes_up rfl ⟨rfl, rfl, rfl⟩ ⟨rfl, rfl, rfl⟩, by decide⟩
  exact absurd h List.not_mem_nil

/-- R87, R102: with the head of a wait deleted the runner is EMPTY, and the cause LIST_END is set. -/
theorem test_head_deleted :
    let q := after (.qdelEntry own [.word "ENTRY", .num 1]) (waiting1 false)
    q.runner.state = .empty ∧ q.alerts.listEnd = true := by decide +kernel

theorem test_witness_TrapsAreWritten :
    let x : Slot := { id := some 9, on := false }
    let p := { up with list := { up.list with slots := [Slot.blank, Slot.blank, Slot.blank, x] } }
    Takes (st p) .a .trap ∧ p.list.slots[3]? = some x ∧ x.id ≠ none ∧
    (∀ i z, i ≠ 3 → p.list.slots[i]? = some z → z.id ≠ some 65535) ∧
    p.list.slots[0]? = some Slot.blank ∧ (0 : Nat) ≠ 3 ∧ Slot.blank.id = none := by
  refine ⟨takes_up rfl ⟨rfl, rfl, rfl⟩ ⟨rfl, rfl, rfl⟩, by decide, by decide, ?_, by decide, by decide, by decide⟩
  intro i z hi hz
  match i, hi with
  | 0, _ => cases hz; decide
  | 1, _ => cases hz; decide
  | 2, _ => cases hz; decide
  | n + 4, _ => cases hz

/-- A part whose runner is in a state over an empty list, with the clock set. -/
def runner (s : RunState) : Part := runs s RunCtx.blank (clocked up)

theorem test_witness_RunHoldResume :
    (∀ s : RunState, Takes (st (runner s)) .a .qrun ∧ Takes (st (runner s)) .a .qres ∧ Takes (st (runner s)) .a .qhld) ∧
    (let p := runner .idle
     p.clock.isSet = true ∧ p.wind.hold = false ∧ p.countsTripped = false ∧
     ¬p.engine.motion ∈ [.unreferenced, .waking, .referencing, .dormant, .parking] ∧ p.list.entries = [] ∧
     p.runner.state = .idle) ∧
    (runner (.held .wind)).runner.state = .held .wind ∧ Takes (st up) .a .qrun ∧ up.clock.isSet = false ∧
    (let q := withE (fun e => { e with motion := .parking }) (runner .idle)
     Takes (st q) .a .qrun ∧ q.clock.isSet = true ∧
     q.engine.motion ∈ [.unreferenced, .waking, .referencing, .dormant, .parking]) ∧
    (runner .empty).runner.state.running = true ∧
    (let q := runner (.held .host)
     let w := { q with wind := { q.wind with hold := true } }
     Takes (st w) .a .qrun ∧ Takes (st w) .a .qres ∧ w.clock.isSet = true ∧ w.wind.hold = true ∧
     ¬w.engine.motion ∈ [.unreferenced, .waking, .referencing, .dormant, .parking] ∧
     Takes (st (faulty [followed] q)) .a .qrun ∧ Takes (st (faulty [followed] q)) .a .qres ∧
     (faulty [followed] q).countsTripped = true ∧ (faulty [followed] q).wind.hold = false) ∧
    (let x : Slot := { id := some 1, on := true }
     let q := listOf [entry 1 brief] (runner (.held .host))
     let p := { q with list := { q.list with slots := [Slot.blank, Slot.blank, Slot.blank, x] } }
     Takes (st p) .a .qrun ∧ Takes (st p) .a .qres ∧ p.clock.isSet = true ∧ p.wind.hold = false ∧
     p.countsTripped = false ∧ ¬p.engine.motion ∈ [.unreferenced, .waking, .referencing, .dormant, .parking] ∧
     p.list.entries = [entry 1 brief] ∧ x ∈ p.list.slots ∧ x.on = true ∧ x.id = some (entry 1 brief).id) ∧
    (let e := { entry 1 .mark with opts := { Opts.none with hold := true } }
     let p := listOf [e] (runs .intercept { RunCtx.blank with id := some 1, fired := true } (clocked up))
     Takes (st p) .a .qres ∧ p.runner.state = .intercept ∧ p.runner.ctx.id = some e.id ∧ p.list.find e.id = some e ∧
     e.body = .mark ∧ e.opts.hold = true ∧ p.log.records = [] ∧ p.log.next = 1) ∧
    (∀ r : RunState, r = .idle ∨ r = .held .host →
      let p := listOf [entry 1 brief] (runner r)
      Takes (st p) .a .qrun ∧ Takes (st p) .a .qres ∧ p.clock.isSet = true ∧ p.wind.hold = false ∧
      p.countsTripped = false ∧ ¬p.engine.motion ∈ [.unreferenced, .waking, .referencing, .dormant, .parking] ∧
      p.list.entries ≠ [] ∧ ∀ x ∈ p.list.slots, x.on = false) := by
  refine ⟨?_, by decide, by decide, takes_each .a .qrun, by decide,
    ⟨takes_up rfl ⟨rfl, rfl, rfl⟩ ⟨rfl, rfl, rfl⟩, by decide, by decide⟩, by decide,
    ⟨takes_up rfl ⟨rfl, rfl, rfl⟩ ⟨rfl, rfl, rfl⟩, takes_up rfl ⟨rfl, rfl, rfl⟩ ⟨rfl, rfl, rfl⟩, by decide, by decide,
      by decide, takes_up rfl ⟨rfl, rfl, rfl⟩ ⟨rfl, rfl, rfl⟩, takes_up rfl ⟨rfl, rfl, rfl⟩ ⟨rfl, rfl, rfl⟩, by decide⟩,
    ⟨takes_up rfl ⟨rfl, rfl, rfl⟩ ⟨rfl, rfl, rfl⟩, takes_up rfl ⟨rfl, rfl, rfl⟩ ⟨rfl, rfl, rfl⟩, by decide⟩,
    ⟨takes_up rfl ⟨rfl, rfl, rfl⟩ ⟨rfl, rfl, rfl⟩, by decide⟩, fun r h => ?_⟩
  rotate_left
  · rcases h with rfl | rfl <;>
      exact ⟨takes_up rfl ⟨rfl, rfl, rfl⟩ ⟨rfl, rfl, rfl⟩, takes_up rfl ⟨rfl, rfl, rfl⟩ ⟨rfl, rfl, rfl⟩, rfl, rfl, by decide,
        by decide, by decide, by decide⟩
  intro s
  have hn : (runner s).Noticed := by
    refine ⟨rfl, rfl, ?_⟩
    cases s <;> rfl
  exact ⟨takes_up rfl ⟨rfl, rfl, rfl⟩ hn, takes_up rfl ⟨rfl, rfl, rfl⟩ hn, takes_up rfl ⟨rfl, rfl, rfl⟩ hn⟩

theorem test_witness_HeadIsSkipped :
    Takes (st up) .a .qskp ∧ up.runner.state = .idle ∧
    (let p := waits brief
     Takes (st p) .a .qskp ∧ (p.goneOnTo 1).map Prod.fst = some (.held .host) ∧ p.runner.ctx.id = some 1 ∧
     p.list.find 1 = some (entry 1 brief) ∧ p.log.records = [] ∧ p.log.next = 1 ∧ p.runner.state = .waiting) ∧
    (let p := unheld [] (waits brief)
     Takes (st p) .a .qskp ∧ (p.goneOnTo 1).map Prod.fst = some .empty ∧ p.runner.state = .waiting) ∧
    (let q := unheld [entry 2 .mark] (works .slewing brief Opts.none .acquiring)
     Takes (st q) .a .qskp ∧ (q.goneOnTo 1).map Prod.fst = some .intercept ∧ q.runner.ctx.id = some 1 ∧
     q.list.find 1 = some (entry 1 brief) ∧ q.log.next = 2 ∧ q.runner.state = .acquiring ∧
     q.runner.ctx.record = some 1 ∧ q.engine.motion = .slewing ∧
     (q.engine.target.map fun t => (t.given.record, t.arrived)) = some (some 1, false) ∧ q.engine.passage = none ∧
     q.engine.az.velocity ≠ 0 ∧ q.model.pending = false) ∧
    (let q := works .settling brief Opts.none .observing
     let p := withE (fun e => { e with target := e.target.map fun t => { t with arrived := true } }) q
     Takes (st p) .a .qskp ∧ (p.goneOnTo 1).map Prod.fst = some (.held .host) ∧ p.runner.ctx.id = some 1 ∧
     p.list.find 1 = some (entry 1 brief) ∧ p.log.records.map RunRec.seq = [1] ∧ p.log.next = 2 ∧
     p.runner.state = .observing ∧ p.runner.ctx.record = some 1 ∧
     (p.engine.target.map fun t => (t.given.record, t.arrived)) = some (some 1, true) ∧ p.engine.passage = none) :=
  ⟨takes_each .a .qskp, by decide, ⟨takes_up rfl ⟨rfl, rfl, rfl⟩ ⟨rfl, rfl, rfl⟩, by decide⟩,
   ⟨takes_up rfl ⟨rfl, rfl, rfl⟩ ⟨rfl, rfl, rfl⟩, by decide⟩, ⟨takes_up rfl ⟨rfl, rfl, rfl⟩ ⟨rfl, rfl, rfl⟩, by decide⟩,
   takes_up rfl ⟨rfl, rfl, rfl⟩ ⟨rfl, rfl, rfl⟩, by decide⟩

theorem test_witness_CorrectionsAndRampSteps :
    Takes (st up) .a .guid ∧ up.guide.allowed = false ∧
    (let g : Assignment := { asked .goto none with guide := true, record := some 1 }
     let q := notices (tracks (aimed g) up)
     let off := notices (tracks (aimed g) { up with guide := { up.guide with enable := false, counted := some 9 } })
     Takes (st q) .a .guid ∧ q.guide.allowed = true ∧ q.guide.counted = some 1 ∧ Takes (st q) .a .gcfg ∧
     Takes (st off) .a .gcfg ∧ off.guide.allowed = false ∧ off.guide.told = true ∧ off.guide.counted ≠ off.attached ∧
     (after (.gcfg own [.word "ENABLE", .word "ON"]) off).guide.counted = some 1) ∧
    Takes (st up) .a .gcfg ∧ (500 ≤ up.guide.rate ∧ up.guide.rate ≤ 60000) ∧
    (100 ≤ up.guide.step ∧ up.guide.step ≤ 60000) ∧ up.power.writing = none ∧
    (let p := { up with power := { up.power with writing := some (0, StoreImage.default) } }
     Takes (st p) .a .gcfg ∧ p.power.writing ≠ none) ∧
    (rampStep 250 59900 200).saturated = true ∧ (rampStep 250 0 200).saturated = false ∧
    (200 : Int).natAbs ≤ (250 : Int).natAbs :=
  ⟨takes_each .a .guid, by decide,
   ⟨takes_up rfl ⟨rfl, rfl, rfl⟩ ⟨rfl, rfl, rfl⟩, by decide, by decide, takes_up rfl ⟨rfl, rfl, rfl⟩ ⟨rfl, rfl, rfl⟩,
    takes_up rfl ⟨rfl, rfl, rfl⟩ ⟨rfl, rfl, rfl⟩, by decide, by decide, by decide, by decide +kernel⟩,
   takes_each .a .gcfg, by decide, by decide, by decide,
   ⟨takes_up rfl ⟨rfl, rfl, rfl⟩ ⟨rfl, rfl, rfl⟩, by decide⟩, by decide, by decide, by decide⟩

theorem test_witness_InputsAreConfigured :
    let domed := works .tracking brief Opts.none .acquiring
    let absent (m : Motion) : Part :=
      let p := withInput .dome armed (works m brief Opts.none .acquiring)
      { p with runner := { p.runner with ctx := { p.runner.ctx with domeFrom := some 0 } } }
    let windy := withInput .wind armed up
    let held := { windy with wind := { windy.wind with hold := true } }
    (∀ p ∈ [up, inMotion .parked, windy, held, withInput .dome armed up, domed, absent .tracking, absent .keyhole,
        absent .slewing, { up with power := { up.power with writing := some (0, StoreImage.default) } }],
      Takes (st p) .a .incf) ∧
    (up.power.writing = none ∧ up.inputs.wind.enabled = false ∧ up.inputs.dome.enabled = false ∧
     up.inputs.estop.enabled = true ∧ (inMotion .parked).engine.motion ∈ [.unreferenced, .parked, .tripped, .dormant] ∧
     ¬up.engine.motion ∈ [.unreferenced, .parked, .tripped, .dormant]) ∧
    (windy.inputs.wind.enabled = true ∧ windy.wind.hold = false ∧ held.wind.hold = true ∧ 0 < held.wind.release) ∧
    (domed.inputs.dome.enabled = false ∧ domed.runner.state.working = true ∧ domed.runner.ctx.id = some 1 ∧
     domed.list.find 1 = some (entry 1 brief) ∧ (entry 1 brief).body ≠ .park ∧ 0 < domed.runner.domeWait) ∧
    ((absent .tracking).inputs.dome.enabled = true ∧ (absent .tracking).inputs.dome.recognised = some false ∧
     (absent .tracking).runner.ctx.domeFrom = some 0 ∧ (absent .tracking).onEntry = true ∧
     (absent .slewing).runner.state.working = true) := by
  refine ⟨fun p h => ?_, by decide⟩
  repeat
    rcases List.mem_cons.1 h with rfl | h
    · exact takes_up rfl ⟨rfl, rfl, rfl⟩ ⟨rfl, rfl, rfl⟩
  exact absurd h List.not_mem_nil

/-- A report that `followed` records. -/
def overran : Report := { source := .azAxis, reason := .following, entry := none, az := none, el := none }

theorem test_witness_ReportsAreRecorded :
    (faulty [followed] up).faults.Ok ∧ (faulty [followed] up).faults.at_i 0 = some followed ∧
    (followed.source = overran.source ∧ followed.reason = overran.reason) ∧
    (∀ i x, FaultTable.blank.at_i i = some x → ¬(x.source = overran.source ∧ x.reason = overran.reason)) ∧
    0 < FaultTable.blank.recs.length ∧ FaultTable.blank.at_i 0 = none ∧
    (let f : FaultTable := { recs := List.replicate 8 (some { followed with source := .elAxis }), order := List.range 8,
                             overflow := false }
     (∀ i x, f.at_i i = some x → ¬(x.source = overran.source ∧ x.reason = overran.reason)) ∧
     ∀ i, i < f.recs.length → f.at_i i ≠ none) := by
  refine ⟨⟨by decide, by decide, ?_, ?_, ?_⟩, by decide, by decide, ?_, by decide, by decide, ?_, by decide⟩
  · intro i
    match i with
    | 0 | 1 | 2 | 3 | 4 | 5 | 6 | 7 => decide
    | n + 8 => exact ⟨fun h => absurd (List.mem_range.1 h) (by simp), fun h => Bool.noConfusion h⟩
  · intro i r h
    match i, h with
    | 0, h => cases h; decide
    | 1, h | 2, h | 3, h | 4, h | 5, h | 6, h | 7, h | n + 8, h => cases h
  · intro i j r q h1 h2 _ _
    have zero (i : Nat) (r : FaultRec) (h : (faulty [followed] up).faults.at_i i = some r) : i = 0 := by
      match i, h with
      | 0, _ => rfl
      | 1, h | 2, h | 3, h | 4, h | 5, h | 6, h | 7, h | n + 8, h => cases h
    rw [zero i r h1, zero j q h2]
  · intro i x h
    match i, h with
    | 0, h | 1, h | 2, h | 3, h | 4, h | 5, h | 6, h | 7, h | n + 8, h => cases h
  · intro i x h
    match i, h with
    | 0, h | 1, h | 2, h | 3, h | 4, h | 5, h | 6, h | 7, h => cases h; decide
    | n + 8, h => cases h

theorem test_witness_FaultsAreCleared :
    let record (o : Source) (r : Reason) : FaultRec := { followed with source := o, reason := r, severity := r.severity }
    let holds (m : Motion) (rs : List FaultRec) : Part := faulty rs (inMotion m)
    let pressed := raised .estop (holds .tripped [record .inputs .estop])
    let atEnd := raised .elFinLow (holds .tripped [record .elAxis .finalLimit])
    let full (m : Motion) : Part := { inMotion m with faults := { up.faults with overflow := true } }
    let lost := withE (fun e => { e with az := { e.az with referenced := false } }) (holds .tripped [followed])
    let wakes := { lost with power := { lost.power with wait := some (0, 2000) } }
    let slipped := withE (fun e => { e with mismatch := true }) (holds .tripped [record .inputs .wrapMismatch, followed])
    (∀ p ∈ [up, pressed, atEnd, holds .backout [followed], holds .tripped [followed], holds .ready [record .limits .zone],
       holds .tracking [record .list .clockStep], slipped, lost, wakes, full .ready, full .tripped, full .backout],
      Takes (st p) .a .fack ∧ p.model.pending = false) ∧
    up.faults.at_i 7 = none ∧ up.faults.overflow = false ∧
    pressed.faults.at_i 0 = some (record .inputs .estop) ∧ pressed.active .estop = true ∧
    atEnd.faults.at_i 0 = some (record .elAxis .finalLimit) ∧ atEnd.active .elFinLow = true ∧
    (holds .backout [followed]).faults.at_i 0 = some followed ∧ followed.severity = .trip ∧
    (holds .ready [record .limits .zone]).faults.at_i 0 = some (record .limits .zone) ∧
    (holds .tracking [record .list .clockStep]).faults.at_i 0 = some (record .list .clockStep) ∧
    slipped.faults.at_i 0 = some (record .inputs .wrapMismatch) ∧
    lost.faults.at_i 0 = some followed ∧ wakes.power.wait ≠ none ∧
    (full .ready).faults.overflow = true ∧ (full .ready).active .estop = false := by
  refine ⟨fun p h => ?_, by decide⟩
  repeat
    rcases List.mem_cons.1 h with rfl | h
    · exact ⟨takes_up rfl ⟨rfl, rfl, rfl⟩ ⟨rfl, rfl, rfl⟩, rfl⟩
  exact absurd h List.not_mem_nil

theorem test_witness_AlertsAreMaskedAndCleared : Takes (st up) .a .alrt ∧ Takes (st up) .b .acka :=
  ⟨takes_each .a .alrt, takes_each .b .acka⟩

theorem test_witness_LineMessages_taken :
    let quiet := lineA { LineState.blank with muted := true }
    (∀ p ∈ [up, quiet, { up with line := { up.line with address := 31 } }],
      Hears p .a ∧ p.Noticed ∧ p.line.isLocked .a .stop = false ∧ p.line.isLocked .a .lrst = false) ∧
    (MsgName.stop ≠ .rset ∧ ¬(MsgName.stop = .lrst ∧ ([] : List Field) = []) ∧ MsgName.stop ≠ .stat ∧
     frameOf (.stop (ownFrame .a) []) = some (.known .stop, ownFrame .a, []) ∧
     frameOf (.stop { line := .a, cast := .broadcast } []) = some (.known .stop, { line := .a, cast := .broadcast }, []) ∧
     up.line.address ≠ 31 ∧ quiet.line.address ≠ 31 ∧ (up.line.get .a).muted = false ∧
     (quiet.line.get .a).muted = true) := by
  refine ⟨fun p h => ?_, by decide⟩
  repeat
    rcases List.mem_cons.1 h with rfl | h
    · exact ⟨⟨rfl, rfl, rfl, rfl⟩, ⟨rfl, rfl, rfl⟩, by decide, by decide⟩
  exact absurd h List.not_mem_nil

theorem test_witness_LineMessages :
    Takes (st up) .a .mute ∧ Takes (st up) .b .unmt ∧ Takes (st up) .a .lock ∧ Takes (st up) .b .lrst ∧
    MsgName.goto ≠ .lock ∧ MsgName.goto ≠ .stat ∧ MsgName.goto ≠ .lrst :=
  ⟨takes_each .a .mute, takes_each .b .unmt, takes_each .a .lock, takes_each .b .lrst, by decide, by decide, by decide⟩

/-- A blank Fault Table has its form. -/
theorem blank_faults : FaultTable.blank.Ok := by
  have none_at (i : Nat) (r : FaultRec) (h : FaultTable.blank.at_i i = some r) : False := by
    match i, h with
    | 0, h | 1, h | 2, h | 3, h | 4, h | 5, h | 6, h | 7, h | n + 8, h => cases h
  refine ⟨by decide, by decide, fun i => ⟨fun h => absurd h List.not_mem_nil, fun h => ?_⟩, fun i r h => (none_at i r h).elim,
    fun i j r q h _ _ _ => (none_at i r h).elim⟩
  obtain ⟨r, hr⟩ := Option.isSome_iff_exists.1 h
  exact (none_at i r hr).elim

/-- With no command waiting a step of `up` answers a next state. -/
theorem up_steps : ∃ t, step (st up) = .next t := ⟨_, rfl⟩

theorem test_witness_StepKeepsFaultsAndGuide :
    (∃ t, step (st up) = .next t) ∧ (st up).part.faults.Ok ∧ (st up).part.guide.Ok :=
  ⟨up_steps, blank_faults, by decide, by decide, by decide, by decide, by decide⟩

theorem test_witness_StepKeepsRunLog :
    let p := { tracks ours up with log := { records := [RunRec.fresh 1 .goto .altaz], next := 2 } }
    (∃ t, step (st p) = .next t) ∧ p.log.Ok ∧ (∀ a, (st p).pending.head? ≠ some (.powerOn a)) ∧ p.EngineOk ∧
    p.RecordsOk := by
  refine ⟨⟨_, rfl⟩, ⟨by decide, by decide, fun r h => ?_⟩, (fun _ h => nomatch h), ⟨by decide, by decide⟩,
    by decide, by decide, fun r h _ => ?_⟩
  · cases List.mem_singleton.1 h
    exact ⟨by decide, by decide, by decide, by decide⟩
  · cases List.mem_singleton.1 h
    exact ⟨by decide, .inr ⟨ours, by decide, by decide, by decide⟩⟩

theorem test_witness_StepKeepsNightList : (∃ t, step (st up) = .next t) ∧ (st up).part.list.Ok := by
  refine ⟨up_steps, by decide, by decide, fun _ h => absurd h List.not_mem_nil, by decide, ?_, by decide, fun d h => nomatch h⟩
  intro x h
  rw [(List.mem_replicate.1 h).2]
  exact ⟨nofun, nofun⟩

theorem test_witness_StepKeepsEngine :
    (∃ t, step (st up) = .next t) ∧ (st up).part.EngineOk ∧ (st up).part.RestartOk ∧
    (∃ t, step (st (restarting up)) = .next t) ∧ (restarting up).RestartOk :=
  ⟨up_steps, ⟨by decide, by decide⟩, fun h => absurd h (by decide), ⟨_, rfl⟩, fun _ => by decide⟩

/-- The defaults of the store are in their ranges. -/
theorem default_ok : StoreImage.default.Ok := by
  refine ⟨by decide, by decide, ⟨by decide, by decide⟩, ⟨by decide, by decide, by decide, ?_⟩, ?_, by decide, by decide,
    by decide, by decide, (by intro v h; revert v; decide), by decide⟩
  · intro z h
    rw [(List.mem_replicate.1 h).2]
    rfl
  · intro i
    cases i <;> decide

theorem test_witness_StepKeepsConfiguration : (∃ t, step (st up) = .next t) ∧ (st up).part.ConfigOk := by
  refine ⟨up_steps, default_ok, default_ok, ?_, ?_, ?_⟩
  · intro w h
    cases h
  · intro v h
    revert v
    decide
  · intro i
    cases i <;> decide

theorem test_witness_StepKeepsNotices : (∃ t, step (st up) = .next t) ∧ (st up).part.Noticed :=
  ⟨up_steps, rfl, rfl, rfl⟩

/-! ### Worked examples of the manual -/

/-- 01, "a trim, then a trim during the trim": the readings of both blends and of the fold. -/
theorem test_trim_readings :
    let c : Clock := { Clock.powerOn with isSet := true, anchorSite := 1000000, trim := some { start := 0, delta := 200 } }
    let d : Clock :=
      { c with anchorSite := 1005100, anchorBase := 5000, trim := some { start := 5000, delta := -200 } }
    c.readingAt 2500 = 1002550 ∧ c.readingAt 5000 = 1005100 ∧ d.readingAt 7500 = 1007550 ∧ d.readingAt 15000 = 1014900 := by
  decide +kernel

/-- 01, "the sidereal angle". -/
theorem test_sidereal_angle :
    let c : Clock := Clock.powerOn
    c.sidereal 3600000 = 54147848 ∧ c.sidereal 1000 = 15041 ∧ c.sidereal (-1) = 1295999984 ∧
    c.sidereal 86164088 = 1295999992 ∧ c.sidereal 86164089 = 7 := by decide +kernel

/-- 01, "rated place". -/
theorem test_rated_place :
    ratedRa 10000 (some { ra := -36000000, dec := 0, epoch := 0 }) 90000 = 1295110000 ∧
    ratedDec 100000 (some { ra := 0, dec := -1000, epoch := 0 }) 5400000 = 98500 ∧
    ratedDec 0 (some { ra := 0, dec := -1, epoch := 0 }) 1800000 = -1 ∧
    ratedDec 323000000 (some { ra := 0, dec := 36000000, epoch := 0 }) 360000 = 324000000 := by decide +kernel

/-- 01, "from apparent place to apparent altitude". -/
theorem test_apparent_altitude :
    trueAltitude 108000000 216000000 0 = 216000000 ∧ skyAzimuth 108000000 216000000 0 none = 0 ∧
    refractionOf 35000 216000000 = 20207 := by decide +kernel

/-- The active terms of the worked example of 02. -/
def terms02 : Terms := { ia := 10000, ie := -4000, ca := 2000, np := 1000, an := 3000, ae := 0, tf := 4000 }

/-- 02, "the model case", with a user offset and near the zenith. -/
theorem test_model_case :
    azCorrection terms02 0 216020207 = 15733 ∧ elCorrection terms02 0 216020207 = 1000 ∧
    arcToAzimuth 10000 216020207 = 20003 ∧ azCorrection terms02 20003 216020207 = 15734 ∧
    azCorrection terms02 0 322200000 = 181887 ∧ elCorrection terms02 0 322200000 = -930 ∧
    arcToAzimuth 1000 322200000 = 57299 := by decide +kernel

/-- 03, "the estimate", and the estimate of the redirected slew. -/
theorem test_estimate :
    slewEstimate .default { az := 0, el := 162000000 } { az := 216000000, el := 198000000 } = 26000 ∧
    slewEstimate .default { az := 0, el := 162000000 } { az := 3600000, el := 162000000 } = 5000 ∧
    slewEstimate .default { az := 91800000, el := 162000000 } { az := -36000000, el := 162000000 } = 17834 := by
  decide +kernel

/-- 04, "a wrap choice": the tie of two candidates and the POS preference. -/
theorem test_wrap_preference :
    preferred .near (-360000000) [918000000, -378000000] = some (-378000000) ∧
    preferred .pos 0 [918000000, -378000000] = some 918000000 ∧
    preferred .near 270000000 [918000000, -378000000] = some (-378000000) ∧
    candidates .default 918000000 = [-378000000, 918000000] := by decide +kernel

/-- 05, "mask interpolation". -/
theorem test_mask_interpolation :
    let m (ps : List (Nat × Int)) : Limits :=
      { Limits.default with mask := ps.foldl (fun l q => l.set q.1 q.2) Limits.default.mask }
    maskAt (m [(9, 54000000)]) 303000000 = 43500000 ∧ maskAt (m [(35, 20000000)]) 1295999999 = 36000000 ∧
    maskAt (m [(4, 36000001)]) 126000000 = 36000001 := by decide +kernel

/-- 08, "four corrections": the clips, the counters and a ramp step. -/
theorem test_four_corrections :
    let g := Guide.blank true 7500 5000
    let g1 := g.take 1200 (-300)
    let g2 := { g1 with remA := 0, remE := 0 }.take 6500 800
    let g3 := { g2 with remA := 2750, remE := 0 }.take (-2000) 100
    (g1.applied, g1.superseded, g1.clipped) = (1, 0, 0) ∧ (g2.remA, g2.applied, g2.superseded, g2.clipped) = (5000, 2, 0, 1) ∧
    (g3.remA, g3.applied, g3.superseded, g3.clipped) = (-2000, 3, 1, 1) ∧
    rampStep 75 500 50 = { acc := 550, rem := 0, saturated := false } := by decide +kernel

/-- 09, "an 8 ms filter": the samples at 16 and 24 recognise ACTIVE at 24. -/
theorem test_eight_ms_filter :
    let p := atBase 24 (withInput .azPrePos (fun f => { f with last := some true, sampledAt := some 16 }) up)
    ∃ t, exec (.inputRecognition .azPrePos .low) (st p) = .next t ∧ t.part.active .azPrePos = true :=
  ⟨_, rfl, by decide +kernel⟩

/-- R135: the filters sample at time base 0, before any time passes. -/
theorem test_samples_at_zero :
    (step State.reset = .next { State.reset with pending := dueSamples State.reset.part }) ∧
    (dueSamples State.reset.part).length = 10 ∧
    (after (.inputRecognition .estop .low) State.reset.part).inputs.estop.last.isSome = true :=
  ⟨rfl, by decide +kernel⟩

/-- R137: an input enabled at an instant is not sampled there, but from its next instant on. -/
theorem test_no_sample_at_the_enable :
    let p := after (.incf own [.word "WIND", .word "EN", .word "ON"]) up
    p.inputs.wind.enabled = true ∧ p.sampleDue p.inputs.wind = false ∧ (atBase 128 p).sampleDue p.inputs.wind = true := by
  decide +kernel

/-- R54 and R175: in a restart's stop a start instant acts as usual: a skip is recorded; an entry is begun, its record open, and
the slew at once brought to rest again, a GOTO record that was left open closed RESTARTED. -/
theorem test_start_instant_in_a_restart :
    let low := after .startInstant (restarting (waits (.altaz 0 0 1000)))
    let p := { restarting (waits brief) with log := { records := [RunRec.fresh 1 .goto .altaz], next := 2 } }
    let q := after .startInstant p
    let moving := after .startInstant (withE (fun e => { e with
      motion := .stopping, az := { e.az with velocity := fx } }) p)
    (low.log.find 1).map RunRec.outcome = some (some .skippedLow) ∧ low.list.entries = [] ∧
    q.engine.motion = .ready ∧ q.engine.target = none ∧ q.runner.state = .acquiring ∧
    (q.log.find 2).map (fun r => (r.isOpen, r.started)) = some (true, some (.site 1000000)) ∧
    (q.log.find 1).map RunRec.outcome = some (some .restarted) ∧ moving.engine.motion = .stopping ∧
    (after .restartReinit q).runner.state = .idle ∧
    ((after .restartReinit q).log.find 2).map RunRec.outcome = some (some .restarted) := by decide +kernel

/-- R175: a close that falls in a restart's stop goes on, a MARK that is next is taken up, and the end of a hold resumes. -/
theorem test_runner_goes_on_in_a_restart :
    let next (p : Part) : Part := match step (st p) with
      | .next s => s.part
      | .fault _ => p
      | .refused _ => p
    let mark := next (restarting (listOf [entry 1 .mark] (runs .empty { RunCtx.blank with goingOn := true } up)))
    let held := { listOf [entry 1 .mark] (runs (.held .wind) RunCtx.blank (clocked up)) with
      wind := { up.wind with hold := true, timer := some 0, release := 0 } }
    let resumed := after .windHoldEnd (restarting { held with runner := { held.runner with windResume := true } })
    mark.alerts.mark = true ∧ (mark.log.find 1).map RunRec.outcome = some (some .markReached) ∧
    resumed.alerts.mark = true ∧ resumed.runner.state = .empty := by decide +kernel

/-- R35, R54 and R175: a stopped engine that comes to rest under a hold begins the stow, which a restart brings to rest. -/
theorem test_stow_in_a_restart :
    let p := { withE (fun e => { e with motion := .stopping, az := { e.az with velocity := 36000 * fx } }) up with
      wind := { up.wind with hold := true } }
    (after (.demandInterval 0 162000000) p).engine.motion = .stowing ∧
    (after (.demandInterval 0 162000000) (restarting p)).engine.motion = .stowed ∧
    (after .restartReinit (after (.demandInterval 0 162000000) (restarting p))).engine.motion = .ready := by
  decide +kernel

/-- R95, close first: after the close no entry is current, so a NEXT goes to the head and QDEL,ALL spares none. -/
theorem test_close_first :
    let q := works .tracking brief Opts.none .observing
    let p := { listOf [entry 1 brief, entry 2 .park] q with
      runner := { q.runner with holdAfter := false, ctx := { q.runner.ctx with accum := 1000 } } }
    let c := after .dwellComplete p
    let fields (x : Part) : List RField := (x.line.a.reply.map Reply.fields).getD []
    c.list.current = none ∧ c.goesOn = true ∧
    fields (after (.qadd own [.num 7, .word "MARK", .word "NEXT"]) c) = [.num 7, .num 1, .num 2] ∧
    fields (after (.qdelAll own [.word "ALL"]) c) = [.num 1, .text "NO"] ∧
    (match step (st c) with
      | .next s => s.part.list.current
      | .fault _ => none
      | .refused _ => none) = some 2 := by decide +kernel

/-- R110: DOME back in a chase after the first TRACKING lets the next TRACKING observe, with DOME INACTIVE again too. -/
theorem test_dome_back_in_a_chase :
    let q := withE (fun e => { e with target := e.target.map fun t => { t with reached := true } })
      (works .settling brief Opts.none .acquiring)
    let p := { q with runner := { q.runner with ctx := { q.runner.ctx with domeFrom := some 0 } } }
    let r := (enterTracking (domeAbsent (domePresent p))).runner
    r.state = .observing ∧ r.ctx.domeFrom = some 0 ∧ (enterTracking p).runner.state = .acquiring := by decide +kernel

/-- R110 and R125: an entry that closes at its first instant of TRACKING, at a dome wait of 0, has been allowed to guide, so
its record is the counted one, with the counters at zero. -/
def guided : Part :=
  let p := withE (fun e => { e with target := e.target.map fun t => { t with given := { t.given with guide := true } } })
    (settled armed 0)
  { p with guide := { p.guide with counted := some 9, applied := 7 } }

theorem test_guide_told_before_the_close :
    let g := (after .settleTimeout guided).guide
    g.counted = some 1 ∧ g.applied = 0 ∧ g.allowed = false ∧
    ((after .settleTimeout guided).log.find 1).map RunRec.outcome = some (some .domeTimeout) := by decide +kernel

/-- R48: two runs complete at one interval make two records, of one axis each, and both carry the entry (log 72). -/
theorem test_following_on_both_axes :
    let q := after .followingTrip (erring (some 0) (some 0) (works .tracking brief Opts.none .observing))
    (q.faults.recs.take 2).map (fun o => o.map fun r => (r.source, r.entry)) =
      [some (.azAxis, some 1), some (.elAxis, some 1)] ∧
    q.runner.state = .held .trip ∧ (q.log.find 1).map RunRec.outcome = some (some .tripped) := by decide +kernel

/-- R104 and R165: the record of a PARK entry has its started time though the engine refuses the park. -/
theorem test_refused_park_has_started :
    ((decidePark (entry 1 .park) (inMotion .stowed)).log.find 1).map (fun r => (r.started.isSome, r.outcome))
      = some (true, some .stopped) := by decide +kernel

/-- 11 and R171: in WAKING the wait of code 2 is 2,000 ms, so at 1,999 ms nothing happens yet. -/
theorem test_encoder_wait_not_over :
    after .encoderWaitExpiry (atBase 1999 State.reset.part) = atBase 1999 State.reset.part ∧
    (after .encoderWaitExpiry (atBase 2000 State.reset.part)).engine.motion = .unreferenced := by decide +kernel

/-- 12: the GOTO frame of the first example, read. -/
theorem test_goto_frame :
    (readFrame (octets ">05GOTO,AXIS,216000000,162000000*C9")).map (fun f => (f.address, f.letters, f.fields.map readField))
      = some (5, "GOTO", [.word "AXIS", .num 216000000, .num 162000000]) := by decide +kernel

/-- 12, "a STAT frame and its reply": the characters of the reply. -/
theorem test_stat_reply :
    Reply.octets { address := 5, name := .known .stat, result := .ok, summary := 0x2002, fields := [], since := 0 }
      = octets "<05STAT,OK,2002*57" ++ [13] := by decide +kernel

/-- A GOTO that arrives by its characters starts the same slew as the message itself does. -/
theorem test_goto_by_characters :
    let p := lineA { LineState.blank with buffer := octets ">05GOTO,AXIS,216000000,162000000*C9" }
    after (.characterReceived .a 13) p = after (.goto own [.word "AXIS", .num 216000000, .num 162000000]) p ∧
    (after (.characterReceived .a 13) p).engine.motion = .slewing ∧
    (after (.characterReceived .a 13) p).line.a.reply.map Reply.octets =
      some (octets "<05GOTO,OK,0408,1,POS,216000000,162000000,26000*C5" ++ [13]) := by decide +kernel

end Sys2Proof.Tests
end

-- ==== Proofs of the statements on guiding (08) ====
section
/-! PROOFS. The Guide Unit: corrections (R127 to R129, R132), GCFG (R133) and the ramp step (R130, R131). -/

namespace Sys2Proof.Machine

/-! ### The engine's notice to the Guide Unit (R125) -/

/-- What the engine's word and the attached record make of the Guide Unit (R125, R132); tied to the model by
`noticeGuide_guide`. -/
def Guide.notice (g : Guide) (told : Bool) (attached : Option Nat) : Guide :=
  let allowed := told && g.enable
  let c : Guide := { g with told := told, allowed := allowed }
  if g.allowed && !allowed then { c with remA := 0, remE := 0 }
  else if !g.allowed && allowed && g.counted != attached then
    { c with counted := attached, applied := 0, superseded := 0, clipped := 0, saturated := false }
  else c

/-- A guide notice reads the engine's condition and its attached record, and nothing else of the part. -/
theorem noticeGuide_guide (p : Part) : (noticeGuide p).guide = p.guide.notice p.guidingCondition p.attached := by
  unfold noticeGuide Guide.notice
  dsimp only
  split
  · rfl
  · split <;> rfl

/-- The notices of a part whose dwell is counted as it should be write nothing but the Guide Unit. -/
theorem notices_of_dwell {p : Part} (h : p.runner.ctx.countFrom.isSome = p.dwellCounts) :
    notices p = { p with guide := p.guide.notice p.guidingCondition p.attached } := by
  have hd : noticeDwell (noticeGuide p) = noticeGuide p := by
    refine noticeDwell_fixed ?_
    rw [noticeGuide_eq]
    exact h
  rw [notices, hd, noticeGuide_eq, noticeGuide_guide]

/-- New settings under the engine's last word: ENABLE OFF ends guiding, ENABLE ON begins it under the attached record, and
the rate and the step alone change neither (R125, R132, R133). -/
theorem Guide.notice_configured (g : Guide) (attached : Option Nat) (b : Bool) (r x : Int)
    (ha : g.allowed = (g.told && g.enable)) :
    Guide.notice { g with enable := b, rate := r, step := x } g.told attached =
      let c : Guide := { g with enable := b, rate := r, step := x, allowed := g.told && b }
      if g.allowed && !b then { c with remA := 0, remE := 0 }
      else if !g.allowed && (g.told && b) && g.counted != attached then
        { c with counted := attached, applied := 0, superseded := 0, clipped := 0, saturated := false }
      else c := by
  have hb : (g.allowed && !(g.told && b)) = (g.allowed && !b) := by
    rw [ha]
    cases g.told <;> simp
  simp only [Guide.notice, hb]

/-! ### Corrections (R127 to R129, R132) -/

/-- Without a counted record the counters are written nowhere (R132). -/
theorem writeCounters_none {p : Part} (h : p.guide.counted = none) : writeCounters p = p := by
  simp only [writeCounters, changeRecord, h]

/-- The counters go into the counted record (R132). -/
theorem writeCounters_some {p : Part} {n : Nat} (h : p.guide.counted = some n) :
    writeCounters p = { p with log := p.log.change n fun r => { r with
      applied := p.guide.applied, superseded := p.guide.superseded, clipped := p.guide.clipped,
      saturated := p.guide.saturated } } := by
  simp only [writeCounters, changeRecord, h]

/-- A correction taken changes the Guide Unit, and writes the counters into the counted record when there is one. -/
theorem takeCorrection_eq (a e : Mas) (p : Part) :
    takeCorrection a e p = { p with
      guide := p.guide.take a e
      log := match p.guide.counted with
        | some n => p.log.change n fun r => { r with
            applied := (p.guide.take a e).applied, superseded := (p.guide.take a e).superseded,
            clipped := (p.guide.take a e).clipped, saturated := p.guide.saturated }
        | none => p.log } := by
  unfold takeCorrection
  cases h : p.guide.counted with
  | none => exact writeCounters_none h
  | some n => exact writeCounters_some h

/-- A remainder is thrown away when one of its components is not zero (R129). -/
theorem remainder_thrown (a e : Mas) : decide (a ≠ 0 ∨ e ≠ 0) = !decide (a = 0 ∧ e = 0) := by
  rw [← decide_not]
  exact decide_eq_decide.2 Decidable.not_and_iff_not_or_not.symm

/-- A taken correction, in the terms of R128 and R129. -/
theorem Guide.take_eq (g : Guide) (a e : Mas) :
    g.take a e = { g with
      remA := clampTo (-g.step) g.step a, remE := clampTo (-g.step) g.step e,
      applied := min 65535 (g.applied + 1),
      superseded := min 65535 (g.superseded + if !decide (g.remA = 0 ∧ g.remE = 0) then 1 else 0),
      clipped := min 65535 (g.clipped +
        ((if -g.step ≤ a ∧ a ≤ g.step then 0 else 1) + (if -g.step ≤ e ∧ e ≤ g.step then 0 else 1))) } := by
  have hthrown : (if g.remA = 0 ∧ g.remE = 0 then 0 else 1) =
      if !decide (g.remA = 0 ∧ g.remE = 0) then 1 else 0 := by
    split <;> simp_all
  simp only [Guide.take, satCount, clippedCount, within_iff, hthrown]

/-- A correction in range while guiding is not allowed is dropped (R127). -/
theorem ownGuid_dropped {p : Part} {a e : Int} (ha : within 3600000 a = true) (he : within 3600000 e = true)
    (hg : p.guide.allowed = false) : ownGuid [.num a, .num e] p = refuse .dropped p := by
  simp [ownGuid, checked, firstFailing, ha, he, hg]

/-- A correction in range while guiding is allowed is taken (R127 to R129). -/
theorem ownGuid_taken {p : Part} {a e : Int} (ha : within 3600000 a = true) (he : within 3600000 e = true)
    (hg : p.guide.allowed = true) : ownGuid [.num a, .num e] p = correctionTaken a e p := by
  simp [ownGuid, checked, firstFailing, ha, he, hg]

/-- Writing the counters leaves the notices in step: they read no record. -/
theorem Part.Noticed.writeCounters {p : Part} (h : p.Noticed) : (writeCounters p).Noticed :=
  h.of_same (writeCounters_engine p) (writeCounters_guide p) (writeCounters_runner p) (writeCounters_inputs p)

/-- Taking a correction leaves the notices in step: it changes neither the engine's word nor what is allowed. -/
theorem Part.Noticed.takeCorrection {p : Part} (h : p.Noticed) (a e : Mas) : (takeCorrection a e p).Noticed := by
  have htaken : Part.Noticed { p with guide := p.guide.take a e } := h
  exact htaken.writeCounters

/-- A line that takes a message is not muted once it has heard it (R184). -/
theorem Takes.unmuted {s : State} {ln : Line} {m : MsgName} (h : Takes s ln m) :
    ((s.part.heard ln).line.get ln).muted = false := by
  obtain ⟨⟨-, -, -, hmuted⟩, -⟩ := h
  rw [heard_muted, hmuted]

/-- A correction's next state from its owner's answer, for an answer whose part keeps the lines and its notices. -/
theorem guidCorrection_gives {s : State} {ln : Line} {fs : List Field} {r : Result} {out : List RField} {q : Part}
    (h : Takes s ln .guid) (ho : ownGuid fs (s.part.heard ln) = { result := r, fields := out, part := q })
    (hl : q.line = (s.part.heard ln).line) (hn : q.Noticed) :
    Gives (.guidCorrection (ownFrame ln) fs) s ln .guid r out q :=
  onPart_gives h.1 (by decide) ho (hl ▸ h.unmuted) hn

/-! ### GCFG (R133) -/

/-- With no fields the settings are read. -/
theorem ownGcfg_read (p : Part) : ownGcfg [] p = okWith (gcfgFields p.guide) p := rfl

/-- Fields that can be read are checked, the range before the store, and put in place. -/
theorem ownGcfg_of_read {p : Part} {f : Field} {fs : List Field} {g : Guide} (h : readGcfg (f :: fs) p.guide = some g) :
    ownGcfg (f :: fs) p =
      checked [(!(between 500 60000 g.rate && between 100 60000 g.step), .range), (p.busyStore, .busy)] p
        (okWith (gcfgFields g) { p with guide := g }) := by
  simp only [ownGcfg, h, List.isEmpty_cons, Bool.false_eq_true, if_false]

/-- ON and OFF are read back. -/
theorem onOff_word (b : Bool) : onOff (if b then "ON" else "OFF") = some b := by cases b <;> rfl

/-- The three pairs name all three settings. -/
theorem readGcfg_all (g : Guide) (b : Bool) (r x : Int) :
    readGcfg [.word "ENABLE", .word (if b then "ON" else "OFF"), .word "RATE", .num r, .word "STEP", .num x] g =
      some { g with enable := b, rate := r, step := x } := by
  simp [readGcfg, pairsOf, namesRepeat, Guide.putAll, Guide.put, onOff_word]

/-- ENABLE alone names the enable. -/
theorem readGcfg_enable (g : Guide) (b : Bool) :
    readGcfg [.word "ENABLE", .word (if b then "ON" else "OFF")] g = some { g with enable := b } := by
  simp [readGcfg, pairsOf, namesRepeat, Guide.putAll, Guide.put, onOff_word]

/-- RATE alone names the rate. -/
theorem readGcfg_rate (g : Guide) (r : Int) : readGcfg [.word "RATE", .num r] g = some { g with rate := r } := by
  simp [readGcfg, pairsOf, namesRepeat, Guide.putAll, Guide.put]

/-- STEP alone names the max step. -/
theorem readGcfg_step (g : Guide) (x : Int) : readGcfg [.word "STEP", .num x] g = some { g with step := x } := by
  simp [readGcfg, pairsOf, namesRepeat, Guide.putAll, Guide.put]

/-- A GCFG that changes nothing of the part. -/
theorem gcfg_gives {s : State} {ln : Line} {fs : List Field} {r : Result} {out : List RField} (h : Takes s ln .gcfg)
    (ho : ownGcfg fs (s.part.heard ln) = { result := r, fields := out, part := s.part.heard ln }) :
    Gives (.gcfg (ownFrame ln) fs) s ln .gcfg r out (s.part.heard ln) :=
  onPart_gives h.1 (by decide) ho h.unmuted (h.2.heard ln)

/-- A GCFG that puts a Guide Unit in place: the notice follows in the same step (R125, R133). -/
theorem gcfg_puts {s : State} {ln : Line} {fs : List Field} {out : List RField} {g : Guide} (h : Takes s ln .gcfg)
    (ho : ownGcfg fs (s.part.heard ln) = okWith out { s.part.heard ln with guide := g }) :
    Gives (.gcfg (ownFrame ln) fs) s ln .gcfg .ok out
      { s.part.heard ln with guide := g.notice s.part.guide.told s.part.attached } := by
  obtain ⟨htold, -, hdwell⟩ := h.2
  refine (onPart_answers h.1 (by decide) ho h.unmuted).trans ?_
  have hnotices := notices_of_dwell (p := ({ s.part.heard ln with guide := g } : Part).answered ln .gcfg .ok out) hdwell
  rw [hnotices, htold]
  rfl

/-- Settings in range are put in place while no store write is in progress (R133). -/
theorem gcfg_configures {s : State} {ln : Line} {f : Field} {fs : List Field} {g : Guide} (h : Takes s ln .gcfg)
    (hread : readGcfg (f :: fs) s.part.guide = some g) (hr : 500 ≤ g.rate ∧ g.rate ≤ 60000)
    (hx : 100 ≤ g.step ∧ g.step ≤ 60000) (hw : s.part.power.writing = none) :
    Gives (.gcfg (ownFrame ln) (f :: fs)) s ln .gcfg .ok (gcfgFields g)
      { s.part.heard ln with guide := g.notice s.part.guide.told s.part.attached } := by
  have hstore : (s.part.heard ln).busyStore = false := by simp [Part.busyStore, hw]
  refine gcfg_puts h ?_
  rw [ownGcfg_of_read (p := s.part.heard ln) hread, (between_iff _ _ _).2 hr, (between_iff _ _ _).2 hx, hstore]
  rfl

/-- Settings out of range are refused, whatever the store does (R133). -/
theorem gcfg_refuses_range {s : State} {ln : Line} {f : Field} {fs : List Field} {g : Guide} (h : Takes s ln .gcfg)
    (hread : readGcfg (f :: fs) s.part.guide = some g)
    (hbad : ¬((500 ≤ g.rate ∧ g.rate ≤ 60000) ∧ (100 ≤ g.step ∧ g.step ≤ 60000))) :
    Gives (.gcfg (ownFrame ln) (f :: fs)) s ln .gcfg .range [] (s.part.heard ln) := by
  have hfail : (between 500 60000 g.rate && between 100 60000 g.step) = false := by
    rw [← Bool.not_eq_true, Bool.and_eq_true, between_iff, between_iff]
    exact hbad
  refine gcfg_gives h ?_
  rw [ownGcfg_of_read (p := s.part.heard ln) hread, hfail]
  rfl

/-- Settings in range are refused while a store write is in progress (R133). -/
theorem gcfg_refuses_busy {s : State} {ln : Line} {f : Field} {fs : List Field} {g : Guide} (h : Takes s ln .gcfg)
    (hread : readGcfg (f :: fs) s.part.guide = some g) (hr : 500 ≤ g.rate ∧ g.rate ≤ 60000)
    (hx : 100 ≤ g.step ∧ g.step ≤ 60000) (hw : s.part.power.writing ≠ none) :
    Gives (.gcfg (ownFrame ln) (f :: fs)) s ln .gcfg .busy [] (s.part.heard ln) := by
  have hstore : (s.part.heard ln).busyStore = true := Option.isSome_iff_ne_none.2 hw
  refine gcfg_gives h ?_
  rw [ownGcfg_of_read (p := s.part.heard ln) hread, (between_iff _ _ _).2 hr, (between_iff _ _ _).2 hx, hstore]
  rfl

/-! ### The ramp step (R130, R131) -/

/-- A ramp step that stays inside the bound moves its step from the remainder into the offset (R130). -/
theorem rampStep_inside {s acc rem : Mas} (h : within guideBound (acc + clampTo (-s) s rem) = true) :
    rampStep s acc rem =
      { acc := acc + clampTo (-s) s rem, rem := rem - clampTo (-s) s rem, saturated := false } := by
  simp only [rampStep, h, if_true]

/-- A ramp step that would pass the bound stops there and throws the remainder away (R131). -/
theorem rampStep_beyond {s acc rem : Mas} (h : within guideBound (acc + clampTo (-s) s rem) = false) :
    rampStep s acc rem =
      { acc := clampTo (-guideBound) guideBound (acc + clampTo (-s) s rem), rem := 0, saturated := true } := by
  simp only [rampStep, h, Bool.false_eq_true, if_false]

/-- What a clamped step leaves of a remainder is no larger than the remainder, and nothing of one within the limit. -/
theorem sub_clampTo {s rem : Int} (hs : 0 ≤ s) :
    (rem - clampTo (-s) s rem).natAbs ≤ rem.natAbs ∧ (rem.natAbs ≤ s.natAbs → rem - clampTo (-s) s rem = 0) := by
  unfold clampTo
  split
  · omega
  · split <;> omega

/-- A value outside a bound is clamped to the end that it passed. -/
theorem clampTo_outside {b x : Int} (h : within b x = false) :
    clampTo (-b) b x = b ∧ b < x ∨ clampTo (-b) b x = -b ∧ x < -b := by
  have hout : ¬(-b ≤ x ∧ x ≤ b) := fun hin => by simp [(within_iff b x).2 hin] at h
  unfold clampTo
  split
  · exact .inr ⟨rfl, ‹_›⟩
  · rw [if_pos (by omega)]
    exact .inl ⟨rfl, by omega⟩

/-- What a ramp step does to one axis, in the terms of R130 and R131. -/
theorem rampStep_spec {s : Int} (acc rem : Int) (hs : 0 ≤ s) :
    let r := rampStep s acc rem
    let step := clampTo (-s) s rem
    (-60000 ≤ r.acc ∧ r.acc ≤ 60000) ∧
    (r.saturated = false → r.acc = acc + step ∧ r.acc + r.rem = acc + rem ∧ r.rem.natAbs ≤ rem.natAbs) ∧
    (r.saturated = true → r.rem = 0 ∧ (r.acc = 60000 ∧ 60000 < acc + step ∨ r.acc = -60000 ∧ acc + step < -60000)) ∧
    (rem.natAbs ≤ s.natAbs → r.rem = 0) := by
  intro r step
  refine ⟨(within_iff guideBound r.acc).1 (rampStep_bound s acc rem), ?_⟩
  cases hin : within guideBound (acc + step) with
  | true =>
    have hr : r = { acc := acc + step, rem := rem - step, saturated := false } := rampStep_inside hin
    have hsum : acc + step + (rem - step) = acc + rem := by omega
    obtain ⟨hless, hnone⟩ := sub_clampTo (rem := rem) hs
    rw [hr]
    exact ⟨fun _ => ⟨rfl, hsum, hless⟩, nofun, hnone⟩
  | false =>
    have hr : r = { acc := clampTo (-guideBound) guideBound (acc + step), rem := 0, saturated := true } :=
      rampStep_beyond hin
    rw [hr]
    exact ⟨nofun, fun _ => ⟨rfl, clampTo_outside hin⟩, fun _ => rfl⟩

/-! ### The statement -/

/-- A correction while guiding is allowed, with what it leaves written out (R127 to R129, R132). -/
theorem guidCorrection_taken {s : State} {ln : Line} {a e : Int} (h : Takes s ln .guid)
    (ha : within 3600000 a = true) (he : within 3600000 e = true) (hg : s.part.guide.allowed = true) :
    let q := takeCorrection a e (s.part.heard ln)
    Gives (.guidCorrection (ownFrame ln) [.num a, .num e]) s ln .guid .ok
      [.num q.guide.remA, .num q.guide.remE, yesNo (decide (s.part.guide.remA ≠ 0 ∨ s.part.guide.remE ≠ 0))] q :=
  guidCorrection_gives h (ownGuid_taken ha he hg) (writeCounters_line _) ((h.2.heard ln).takeCorrection a e)

/-- Settles O49: each clause is the owner's answer (`guidCorrection_taken`, `gcfg_configures` and the refusals) followed by
the notice (`Guide.notice_configured`), and the ramp step is `rampStep_spec`. -/
theorem correctionsAndRampSteps : Obligations.CorrectionsAndRampSteps := by
  unfold Obligations.CorrectionsAndRampSteps
  refine ⟨fun s ln => ⟨fun h a e ha ha' he he' => ?_, fun h => ?_⟩, fun s acc rem hs _ _ => rampStep_spec acc rem hs⟩
  · have hwa := (within_iff 3600000 a).2 ⟨ha, ha'⟩
    have hwe := (within_iff 3600000 e).2 ⟨he, he'⟩
    refine ⟨fun hg => ?_, fun hg => ?_⟩
    · exact guidCorrection_gives h (ownGuid_dropped hwa hwe hg) rfl (h.2.heard ln)
    · have hgives := guidCorrection_taken h hwa hwe hg
      dsimp only at hgives
      rw [remainder_thrown, takeCorrection_eq, Guide.take_eq] at hgives
      exact hgives
  · have hallowed : s.part.guide.allowed = (s.part.guide.told && s.part.guide.enable) := by
      obtain ⟨-, htold, hall, -⟩ := h
      rw [hall, htold]
    refine ⟨gcfg_gives h (ownGcfg_read _), fun b r x hr hx hw => ?_, fun b r x => ?_⟩
    · have hnow := Guide.notice_configured s.part.guide s.part.attached b r x hallowed
      dsimp only at hnow ⊢
      rw [← hnow]
      refine ⟨gcfg_configures h (readGcfg_all _ b r x) hr hx hw, ?_, ?_, ?_⟩
      · rintro rfl rfl
        exact gcfg_configures h (readGcfg_enable _ b) hr hx hw
      · rintro rfl rfl
        exact gcfg_configures h (readGcfg_rate _ r) hr hx hw
      · rintro rfl rfl
        exact gcfg_configures h (readGcfg_step _ x) hr hx hw
    · exact ⟨gcfg_refuses_range h (readGcfg_all _ b r x),
        fun hin hw => gcfg_refuses_busy h (readGcfg_all _ b r x) hin.1 hin.2 hw⟩

end Sys2Proof.Machine
end

-- ==== Proofs of the statements on faults, alerts and the run log (10) ====
section
/-! PROOFS. The Fault Table: what a report does to the record at each index (R155 to R157), and that what it does to the
rest of the part (R49, R112, R118, R158) does not look at the table. -/

namespace Sys2Proof.Machine

/-! ### Records and indexes (R154, R155) -/

/-- A record matches a report of its own source and reason. -/
theorem FaultRec.matches_iff (x : FaultRec) (source : Source) (reason : Reason) :
    x.matches source reason = true ↔ x.source = source ∧ x.reason = reason := by
  simp [FaultRec.matches]

/-- Folding twice counts two, to 255 at most, and keeps the later time (R157). -/
theorem FaultRec.fold_fold (x : FaultRec) (t u : Stamp) :
    (x.fold t).fold u = { x with count := min 255 (x.count + 2), last := u } := by
  have hcount : min 255 (min 255 (x.count + 1) + 1) = min 255 (x.count + 2) := by omega
  simp only [FaultRec.fold, hcount]

/-- An index holds a record when its place does. -/
theorem FaultTable.at_i_eq_some {ft : FaultTable} {i : Nat} {x : FaultRec} :
    ft.at_i i = some x ↔ ft.recs[i]? = some (some x) := by
  rw [FaultTable.at_i, Option.join_eq_some_iff]

/-- The table finds a match when some index holds one (R157). -/
theorem FaultTable.any_matches_iff (ft : FaultTable) (source : Source) (reason : Reason) :
    ft.recs.any (fun o => o.any (·.matches source reason)) = true ↔
      ∃ i x, ft.at_i i = some x ∧ x.source = source ∧ x.reason = reason := by
  simp only [List.any_eq_true, Option.any_eq_true, FaultRec.matches_iff, FaultTable.at_i_eq_some]
  constructor
  · rintro ⟨_, hmem, x, rfl, hx⟩
    obtain ⟨i, hi⟩ := List.mem_iff_getElem?.1 hmem
    exact ⟨i, x, hi, hx⟩
  · rintro ⟨i, x, hi, hx⟩
    exact ⟨some x, List.mem_of_getElem? hi, x, rfl, hx⟩

/-- Writing one place, whatever the order then is, is reading it there and the old table elsewhere. -/
theorem FaultTable.at_i_set (ft : FaultTable) {k : Nat} (hk : k < ft.recs.length) (v : Option FaultRec) (o : List Nat)
    (j : Nat) :
    FaultTable.at_i { ft with recs := ft.recs.set k v, order := o } j = if j = k then v else ft.at_i j := by
  simp only [FaultTable.at_i, List.getElem?_set]
  by_cases hj : k = j
  · subst hj
    simp [hk]
  · simp [hj, Ne.symm hj]

/-! ### A report in the table (R157) -/

/-- A report that some record matches folds that record alone, and leaves the order and the flag (R155, R157). -/
theorem FaultTable.record_known {ft : FaultTable} {r : Report} {i : Nat} {x : FaultRec} (t : Stamp) (h : ft.Ok)
    (hx : ft.at_i i = some x) (hknown : x.source = r.source ∧ x.reason = r.reason) :
    (ft.record r t).at_i i = some (x.fold t) ∧ (∀ j, j ≠ i → (ft.record r t).at_i j = ft.at_i j) ∧
    (ft.record r t).order = ft.order ∧ (ft.record r t).overflow = ft.overflow := by
  have heq := ft.record_fold r t ((ft.any_matches_iff _ _).2 ⟨i, x, hx, hknown⟩)
  have hat : ∀ j, (ft.record r t).at_i j =
      (ft.at_i j).map fun y => if y.matches r.source r.reason then y.fold t else y := by
    intro j
    rw [heq]
    simp only [FaultTable.at_i, List.getElem?_map]
    cases ft.recs[j]? <;> rfl
  refine ⟨?_, fun j hj => ?_, by rw [heq], by rw [heq]⟩
  · rw [hat, hx, Option.map_some, if_pos ((x.matches_iff _ _).2 hknown)]
  · rw [hat]
    cases hy : ft.at_i j with
    | none => rfl
    | some y =>
      obtain ⟨-, -, -, -, hunique⟩ := h
      have hother : ¬y.matches r.source r.reason = true := fun hm => by
        obtain ⟨hs, hr⟩ := (y.matches_iff _ _).1 hm
        exact hj (hunique j i y x hy hx (hs.trans hknown.1.symm) (hr.trans hknown.2.symm))
      rw [Option.map_some, if_neg hother]

/-- A report counts the second time as it did the first (R157). -/
theorem FaultTable.record_twice {ft : FaultTable} {r : Report} {i : Nat} {x : FaultRec} (t u : Stamp) (h : ft.Ok)
    (hx : ft.at_i i = some x) (hknown : x.source = r.source ∧ x.reason = r.reason) :
    ((ft.record r t).record r u).at_i i = some { x with count := min 255 (x.count + 2), last := u } := by
  obtain ⟨hfirst, -⟩ := FaultTable.record_known t h hx hknown
  obtain ⟨hsecond, -⟩ := FaultTable.record_known u (FaultTable.record_ok r t h) hfirst hknown
  rw [hsecond, FaultRec.fold_fold]

/-- The lowest index without a record is the one the table finds (R157). -/
theorem FaultTable.findIdx_lowest {ft : FaultTable} {i : Nat} (hi : i < ft.recs.length) (hfree : ft.at_i i = none)
    (hlow : ∀ j, j < i → ft.at_i j ≠ none) : ft.recs.findIdx? (·.isNone) = some i := by
  have hplace : ∀ j (hj : j < ft.recs.length), ft.at_i j = ft.recs[j] := fun j hj => by
    rw [FaultTable.at_i, List.getElem?_eq_getElem hj, Option.join_some]
  refine List.findIdx?_eq_some_iff_getElem.2 ⟨hi, ?_, fun j hj => ?_⟩
  · rw [← hplace i hi, hfree, Option.isNone_none]
  · rw [← hplace j (Nat.lt_trans hj hi), Option.isNone_iff_eq_none]
    exact hlow j hj

/-- A full table has no place to find (R157). -/
theorem FaultTable.findIdx_full {ft : FaultTable} (hfull : ∀ i, i < ft.recs.length → ft.at_i i ≠ none) :
    ft.recs.findIdx? (·.isNone) = none := by
  refine List.findIdx?_eq_none_iff.2 fun o ho => ?_
  obtain ⟨i, hi, rfl⟩ := List.mem_iff_getElem.1 ho
  have hne := hfull i hi
  rw [FaultTable.at_i, List.getElem?_eq_getElem hi, Option.join_some] at hne
  exact Option.isNone_eq_false_iff.2 (Option.isSome_iff_ne_none.2 hne)

/-! ### Changes that do not look at the Fault Table

Each change of the part that a trip makes is the same whatever table the part holds: exchanging the table before it or
after it is one. -/

/-- The part with another Fault Table. -/
def Part.withFaults (p : Part) (ft : FaultTable) : Part := { p with faults := ft }

theorem Part.withFaults_engine (p : Part) (ft : FaultTable) : (p.withFaults ft).engine = p.engine := rfl
theorem Part.withFaults_runner (p : Part) (ft : FaultTable) : (p.withFaults ft).runner = p.runner := rfl
theorem Part.withFaults_clock (p : Part) (ft : FaultTable) : (p.withFaults ft).clock = p.clock := rfl
theorem Part.withFaults_onEntry (p : Part) (ft : FaultTable) : (p.withFaults ft).onEntry = p.onEntry := rfl

theorem changeRecord_withFaults (n : Option Nat) (f : RunRec → RunRec) (p : Part) (ft : FaultTable) :
    changeRecord n f (p.withFaults ft) = (changeRecord n f p).withFaults ft := by cases n <;> rfl

theorem closeRecord_withFaults (n : Option Nat) (o : Ending) (p : Part) (ft : FaultTable) :
    closeRecord n o (p.withFaults ft) = (closeRecord n o p).withFaults ft := changeRecord_withFaults n _ p ft

theorem requestPass_withFaults (p : Part) (ft : FaultTable) :
    requestPass (p.withFaults ft) = (requestPass p).withFaults ft := by
  unfold requestPass
  rw [Part.withFaults_clock]
  split <;> rfl

theorem removeEntry_withFaults (id : Nat) (p : Part) (ft : FaultTable) :
    removeEntry id (p.withFaults ft) = (removeEntry id p).withFaults ft := by
  unfold removeEntry
  rw [← requestPass_withFaults]
  rfl

theorem activate_withFaults (p : Part) (ft : FaultTable) :
    activate (p.withFaults ft) = (activate p).withFaults ft := by
  unfold activate
  dsimp only
  rw [apply_ite (Part.withFaults · ft), ← requestPass_withFaults]
  rfl

theorem boundary_withFaults (p : Part) (ft : FaultTable) :
    boundary (p.withFaults ft) = (boundary p).withFaults ft := by
  unfold boundary
  rw [apply_ite (Part.withFaults · ft), ← activate_withFaults]
  rfl

theorem bankPassage_withFaults (p : Part) (ft : FaultTable) :
    bankPassage (p.withFaults ft) = (bankPassage p).withFaults ft := by
  unfold bankPassage
  rw [Part.withFaults_engine]
  split
  · exact changeRecord_withFaults _ _ p ft
  · rfl

theorem leavePassage_withFaults (p : Part) (ft : FaultTable) :
    leavePassage (p.withFaults ft) = (leavePassage p).withFaults ft := by
  unfold leavePassage
  rw [bankPassage_withFaults]
  rfl

theorem endGoto_withFaults (o : Ending) (p : Part) (ft : FaultTable) :
    endGoto o (p.withFaults ft) = (endGoto o p).withFaults ft := by
  unfold endGoto
  rw [Part.withFaults_engine]
  split
  · split
    · exact closeRecord_withFaults _ o p ft
    · rfl
  · rfl

/-- The engine trips alike whatever the table holds (R49). -/
theorem engineTrip_withFaults (p : Part) (ft : FaultTable) :
    engineTrip (p.withFaults ft) = (engineTrip p).withFaults ft := by
  unfold engineTrip
  rw [Part.withFaults_engine, leavePassage_withFaults, endGoto_withFaults]
  split
  · rfl
  · rfl
  · rfl
  · rw [← boundary_withFaults]
    rfl

theorem bankWorked_withFaults (p : Part) (ft : FaultTable) :
    bankWorked (p.withFaults ft) = (bankWorked p).withFaults ft := by
  unfold bankWorked
  rw [Part.withFaults_onEntry, bankPassage_withFaults, apply_ite (Part.withFaults · ft)]

theorem writeDwell_withFaults (p : Part) (ft : FaultTable) :
    writeDwell (p.withFaults ft) = (writeDwell p).withFaults ft := changeRecord_withFaults _ _ p ft

theorem dropEntry_withFaults (p : Part) (ft : FaultTable) :
    dropEntry (p.withFaults ft) = (dropEntry p).withFaults ft := by
  unfold dropEntry
  rw [Part.withFaults_runner]
  split
  · exact removeEntry_withFaults _ p ft
  · rfl

/-- A worked entry closes alike whatever the table holds (R112). -/
theorem closeAs_withFaults (o : Ending) (p : Part) (ft : FaultTable) :
    closeAs o (p.withFaults ft) = (closeAs o p).withFaults ft := by
  unfold closeAs closeWork
  dsimp only
  rw [Part.withFaults_runner, bankWorked_withFaults, writeDwell_withFaults, closeRecord_withFaults,
    dropEntry_withFaults]
  rfl

/-- The runner hears of a trip alike whatever the table holds (R118). -/
theorem runnerTrip_withFaults (p : Part) (ft : FaultTable) :
    runnerTrip (p.withFaults ft) = (runnerTrip p).withFaults ft := by
  unfold runnerTrip
  dsimp only
  rw [Part.withFaults_runner, closeAs_withFaults, ← apply_ite (Part.withFaults · ft), Part.withFaults_runner]
  split <;> rfl

/-- A report writes its own record into whatever table the part holds, and does the rest alike (R157, R158). -/
theorem report_withFaults (r : Report) (p : Part) (ft : FaultTable) :
    report r (p.withFaults ft) = (report r p).withFaults (ft.record r p.stamp) := by
  have hrecord : ∀ f : FaultTable, recordFault r (p.withFaults f) = p.withFaults (f.record r p.stamp) := fun _ => rfl
  have hown : recordFault r p = p.withFaults (p.faults.record r p.stamp) := rfl
  unfold report
  dsimp only
  rw [hrecord, hown]
  split
  · simp only [engineTrip_withFaults, runnerTrip_withFaults]
    rfl
  · rfl
  · rfl

/-! ### The statement -/

/-- Settles O51: a report that some record matches is `FaultTable.record_known`, one that none matches is
`FaultTable.record_new` at the lowest free index or `FaultTable.record_overflow`, two alike are
`FaultTable.record_twice`, and the effect beside the table is `report_withFaults`. -/
theorem reportsAreRecorded : Obligations.ReportsAreRecorded := by
  unfold Obligations.ReportsAreRecorded
  intro ft r t known q
  refine ⟨fun i x hok hx hk => FaultTable.record_known t hok hx hk, fun hnone => ?_,
    fun i x u hok hx hk => FaultTable.record_twice t u hok hx hk, fun p => report_withFaults r p ft⟩
  have hany : ft.recs.any (fun o => o.any (·.matches r.source r.reason)) = false := by
    rw [← Bool.not_eq_true, FaultTable.any_matches_iff]
    rintro ⟨i, x, hx, hk⟩
    exact hnone i x hx hk
  refine ⟨fun i hi hfree hlow => ?_, fun hfull => ft.record_overflow r t hany (FaultTable.findIdx_full hfull)⟩
  have hq : q = _ := ft.record_new r t i hany (FaultTable.findIdx_lowest hi hfree hlow)
  rw [hq]
  refine ⟨?_, fun j hj => ?_, rfl, rfl⟩
  · rw [FaultTable.at_i_set ft hi, if_pos rfl]
  · rw [FaultTable.at_i_set ft hi, if_neg hj]

end Sys2Proof.Machine
end

-- ==== Proofs of the statements on the message lines (12) ====
section
/-! PROOFS. The summary and the reply that carries it (R184, R186). -/

namespace Sys2Proof.Machine

/-! ### The flags of the summary as bits (R186) -/

/-- Flags as a number, the first flag the least significant bit: bit `i` is the `i`-th flag. -/
theorem testBit_foldr_flags (fl : List Bool) (i : Nat) :
    (fl.foldr (fun (b : Bool) n => 2 * n + if b then 1 else 0) 0).testBit i = fl.getD i false := by
  induction fl generalizing i with
  | nil => simp
  | cons b fl ih =>
    rw [List.foldr_cons]
    cases i with
    | zero => cases b <;> simp [Nat.testBit_zero]
    | succ i =>
      have hhalf (n : Nat) : (2 * n + if b then 1 else 0) / 2 = n := by split <;> omega
      rw [Nat.testBit_succ, hhalf, ih, List.getD_cons_succ]

/-- Packed flags stand at their bits counted from the last flag, which is bit 0. -/
theorem packFlags_getLsbD (fl : List Bool) {i : Nat} (hi : i < 16) :
    (packFlags fl).getLsbD i = fl.reverse.getD i false := by
  rw [packFlags, List.foldl_eq_foldr_reverse, BitVec.getLsbD_ofNat, testBit_foldr_flags, decide_eq_true hi, Bool.true_and]

/-- SEQ_RUNNING names the states of the runner it stands for (R97, R186). -/
theorem RunState.seqRunning_eq (x : RunState) :
    x.seqRunning = decide (x ∈ [.empty, .waiting, .acquiring, .observing]) := by
  cases x <;> simp [RunState.seqRunning]

/-- MOVING names the motion states it stands for (R28, R186). -/
theorem Motion.moving_eq (m : Motion) :
    m.moving = decide (m ∈ [.referencing, .slewing, .settling, .keyhole, .stopping, .parking, .stowing, .backout]) := by
  cases m <;> rfl

/-! ### The reply (R184) -/

/-- A reply's characters up to the last digit of its summary; its fields, its check and its CR follow. -/
theorem Reply.octets_eq (r : Reply) :
    r.octets = [60] ++ addressDigits r.address ++ Machine.octets (Name.word r.name) ++ Machine.octets "," ++
      Machine.octets r.result.word ++ Machine.octets "," ++ hex4 r.summary.toNat ++
      ((r.fields.flatMap fun f => Machine.octets "," ++ f.octets) ++ [42] ++ hex2 (checkOf r.body) ++ [13]) := by
  simp only [Reply.octets, Reply.body, List.append_assoc]

/-- An addressed message of any name is answered on a line that is not muted, with the summary of the part as it then
stands. -/
theorem sendReply_reply {p : Part} {ln : Line} (n : Name) (r : Result) (out : List RField)
    (hq : (p.line.get ln).muted = false) :
    ((sendReply n ln .addressed r out p).line.get ln).reply =
      some { address := p.line.address, name := n, result := r, summary := summary p ln, fields := out,
             since := p.now } := by
  have hcast : (Cast.addressed == .broadcast || (p.line.get ln).muted) = false := by rw [hq]; rfl
  rw [sendReply, hcast]
  simp

/-- Settles O26: the flags stand at their bits by `packFlags_getLsbD`, and the reply of `sendReply_reply` shows them by
`Reply.octets_eq`. -/
theorem summaryBits : Obligations.SummaryBits := by
  unfold Obligations.SummaryBits
  intro p ln
  refine ⟨fun i hi => ?_, fun n r out hq => ⟨_, _, sendReply_reply n r out hq, Reply.octets_eq _⟩⟩
  rw [summary, packFlags_getLsbD _ hi]
  match i, hi with
  | 5, _ => exact p.runner.state.seqRunning_eq
  | 4, _ =>
    show p.runner.state.seqHeld = _
    cases p.runner.state <;> rfl
  | 3, _ => exact p.engine.motion.moving_eq
  | 0, _ | 1, _ | 2, _ | 6, _ | 7, _ | 8, _ | 9, _ | 10, _ | 11, _ | 12, _ | 13, _ | 14, _ | 15, _ => rfl
  | n + 16, hn => exact absurd hn (by omega)

end Sys2Proof.Machine
end
